-- ==== Sys2Proof/Word.lean ====
section
/-! DEFINITION. The words of the MFS: the byte of the host data port, the 9-bit host offset and the
18-bit bus word (00_scope.md R5, 30_encoding.md R60). -/

namespace Sys2Proof

/-- The unit of every transaction and of both RAMs (20_memory.md R43). -/
abbrev Byte := BitVec 8

/-- A host offset, 0x000 to 0x1FF (20_memory.md R42). -/
abbrev Offset := BitVec 9

/-- One host transaction in format BUS18 (30_encoding.md R60). -/
abbrev BusWord := BitVec 18

end Sys2Proof
end

