-- ==== Sys2Proof/Syntax.lean ====
section
/-! DEFINITION. The transactions of the MFS: one constructor for each of the 15 rows of
spec/opcode_table.json (30_encoding.md R61, R63). -/

namespace Sys2Proof

/-- One host transaction. The twelve commands and CMDX are writes to CMD (offset 0x000). -/
inductive Instr where
  /-- RD: read one byte at `off` (42_host_bus.md R170). The DATA bits of the word are ignored (R60). -/
  | rd (off : Offset)
  /-- WR: write `v` at `off`, `off` not 0x000 (R171). -/
  | wr (off : Offset) (v : Byte)
  /-- CMDX: write to CMD a byte `c` outside the opcode map (R175). -/
  | cmdx (c : Byte)
  /-- QWPAN, command 0x10: `is_within_pan` (40_address_model.md R120). -/
  | qwpan
  /-- QDMODE, command 0x11: `destination_mode` (R121). -/
  | qdmode
  /-- QSMODE, command 0x12: `source_mode` (R122). -/
  | qsmode
  /-- QDPAN, command 0x13: `destination_pan_id` (R123). -/
  | qdpan
  /-- QDADDR, command 0x14: `destination_address` (R124). -/
  | qdaddr
  /-- QSPAN, command 0x15: `source_pan_id` (R125). -/
  | qspan
  /-- QSADDR, command 0x16: `source_address` (R126). -/
  | qsaddr
  /-- QFTYPE, command 0x17: the 3-bit frame type code (41_frame_codec.md R155). -/
  | qftype
  /-- QFCF, command 0x18: the 16-bit frame control field (R156). -/
  | qfcf
  /-- QABLEN, command 0x19: `address_block_length` (R157). -/
  | qablen
  /-- QMLEN, command 0x1A: `mpdu_length` (R158). -/
  | qmlen
  /-- SER, command 0x20: serialize the descriptor into OUTBUF (R160). -/
  | ser
  deriving DecidableEq, Repr

end Sys2Proof
end

