-- ==== Sys2Proof/WellFormed.lean ====
section
/-! DEFINITION. Which terms of `Instr` a bus word can stand for (30_encoding.md R61, R64). -/

namespace Sys2Proof

/-- GRP and FN of a command byte that R63 lists, read off the groups of R62 and R64: the query group 0x1
with FN up to 0xA, and the serialize group 0x2 with FN 0. -/
def legalCommand (c : Byte) : Bool :=
  let grp := c.extractLsb' 4 4
  let fn := c.extractLsb' 0 4
  (grp == 1#4 && decide (fn ≤ 0xA#4)) || (grp == 2#4 && fn == 0#4)

/-- A plain WR has an offset other than 0x000 (R61 step 3); CMDX carries an illegal command byte (R64). -/
def Instr.wellFormed : Instr → Bool
  | .rd _ => true
  | .wr off _ => off != 0#9
  | .cmdx c => !legalCommand c
  | .qwpan | .qdmode | .qsmode | .qdpan | .qdaddr | .qspan | .qsaddr => true
  | .qftype | .qfcf | .qablen | .qmlen | .ser => true

end Sys2Proof
end

