-- ==== Sys2Proof/Decode.lean ====
section
/-! DEFINITION. The decoder and the encoder of bus words (30_encoding.md R60 to R65, R82), and the rows of
spec/opcode_table.json with the precedence a table-driven decoder uses (R61). -/

namespace Sys2Proof

/-- Field W of BUS18, bit 17: true for a write (R60). -/
def BusWord.isWrite (w : BusWord) : Bool := w.getLsbD 17

/-- Field OFF of BUS18, bits [16:8] (R60). -/
def BusWord.off (w : BusWord) : Offset := w.extractLsb' 8 9

/-- Field DATA of BUS18, bits [7:0] (R60). -/
def BusWord.data (w : BusWord) : Byte := w.extractLsb' 0 8

/-- The command opcode map, row by row (R63). -/
def opcodeMap : List (Byte × Instr) :=
  [(0x10#8, .qwpan), (0x11#8, .qdmode), (0x12#8, .qsmode), (0x13#8, .qdpan),
   (0x14#8, .qdaddr), (0x15#8, .qspan), (0x16#8, .qsaddr), (0x17#8, .qftype),
   (0x18#8, .qfcf), (0x19#8, .qablen), (0x1A#8, .qmlen), (0x20#8, .ser)]

/-- A byte written to CMD: the command R63 gives it, else an illegal command (R64). -/
def decodeCommand (c : Byte) : Instr := (opcodeMap.lookup c).getD (.cmdx c)

/-- The decoder, in the order of R61. Every bus word is a transaction (R60). -/
def decode (w : BusWord) : Instr :=
  if w.isWrite then
    if w.off = 0#9 then decodeCommand w.data else .wr w.off w.data
  else .rd w.off

/-- Why a number is no transaction: BUS18 has 18 bits and no extension word (R60, R65). -/
inductive DecodeError where
  /-- A bit above bit 17 is set. -/
  | notBus18
  deriving DecidableEq, Repr

/-- The bus word a number stands for, bit 0 its least significant bit. -/
def busWordOfNat (n : Nat) : Except DecodeError BusWord :=
  if n < 2 ^ 18 then .ok (BitVec.ofNat 18 n) else .error .notBus18

/-- The decoder on any number whatever, rejecting by name. -/
def decodeNat (n : Nat) : Except DecodeError Instr := (busWordOfNat n).map decode

/-- The instruction whose bits are `w` as spec/opcode_table.json numbers them. A bus word is one 18-bit
word, the table's own numbering, so `nbits` (18 rounded up to whole bytes) adds nothing. -/
def decodeTableWord (_nbits w : Nat) : Option Instr := (decodeNat w).toOption

/-- `RD off` encodes as `zext_18(off) << 8` (R82); DATA is 0 by convention (R60). -/
def busRead (off : Offset) : BusWord := off.setWidth 18 <<< 8

/-- `WR off, d` encodes as `(1 << 17) | (off << 8) | d` (R82). -/
def busWrite (off : Offset) (d : Byte) : BusWord :=
  (1#18 <<< 17) ||| (off.setWidth 18 <<< 8) ||| d.setWidth 18

/-- The encoder (R82, with the command bytes of R63). -/
def encode : Instr → BusWord
  | .rd off => busRead off
  | .wr off v => busWrite off v
  | .cmdx c => busWrite 0x000#9 c
  | .qwpan => busWrite 0x000#9 0x10#8
  | .qdmode => busWrite 0x000#9 0x11#8
  | .qsmode => busWrite 0x000#9 0x12#8
  | .qdpan => busWrite 0x000#9 0x13#8
  | .qdaddr => busWrite 0x000#9 0x14#8
  | .qspan => busWrite 0x000#9 0x15#8
  | .qsaddr => busWrite 0x000#9 0x16#8
  | .qftype => busWrite 0x000#9 0x17#8
  | .qfcf => busWrite 0x000#9 0x18#8
  | .qablen => busWrite 0x000#9 0x19#8
  | .qmlen => busWrite 0x000#9 0x1A#8
  | .ser => busWrite 0x000#9 0x20#8

/-- A row of spec/opcode_table.json: a word `w` is of the row when `w &&& mask = pattern`. -/
structure OpcodeRow where
  mnemonic : String
  pattern : BusWord
  mask : BusWord
  deriving DecidableEq, Repr

/-- The 15 rows of spec/opcode_table.json, in its order. -/
def opcodeRows : List OpcodeRow :=
  [⟨"RD", 0x00000#18, 0x20000#18⟩,
   ⟨"QWPAN", 0x20010#18, 0x3FFFF#18⟩, ⟨"QDMODE", 0x20011#18, 0x3FFFF#18⟩,
   ⟨"QSMODE", 0x20012#18, 0x3FFFF#18⟩, ⟨"QDPAN", 0x20013#18, 0x3FFFF#18⟩,
   ⟨"QDADDR", 0x20014#18, 0x3FFFF#18⟩, ⟨"QSPAN", 0x20015#18, 0x3FFFF#18⟩,
   ⟨"QSADDR", 0x20016#18, 0x3FFFF#18⟩, ⟨"QFTYPE", 0x20017#18, 0x3FFFF#18⟩,
   ⟨"QFCF", 0x20018#18, 0x3FFFF#18⟩, ⟨"QABLEN", 0x20019#18, 0x3FFFF#18⟩,
   ⟨"QMLEN", 0x2001A#18, 0x3FFFF#18⟩, ⟨"SER", 0x20020#18, 0x3FFFF#18⟩,
   ⟨"CMDX", 0x20000#18, 0x3FF00#18⟩, ⟨"WR", 0x20000#18, 0x20000#18⟩]

/-- Whether a word is of a row. -/
def OpcodeRow.accepts (r : OpcodeRow) (w : BusWord) : Bool := w &&& r.mask == r.pattern

/-- How many mask bits a row sets. -/
def OpcodeRow.weight (r : OpcodeRow) : Nat := (List.range 18).countP fun k => r.mask.getLsbD k

/-- Of the rows of the list that accept the word, the one with the most mask bits set (R61). -/
def bestRow (w : BusWord) : List OpcodeRow → Option OpcodeRow
  | [] => none
  | r :: rows =>
    match bestRow w rows with
    | none => if r.accepts w then some r else none
    | some b => if r.accepts w && decide (b.weight < r.weight) then some r else some b

/-- The mnemonic of a transaction, as the table spells it. -/
def Instr.mnemonic : Instr → String
  | .rd _ => "RD"
  | .wr _ _ => "WR"
  | .cmdx _ => "CMDX"
  | .qwpan => "QWPAN"
  | .qdmode => "QDMODE"
  | .qsmode => "QSMODE"
  | .qdpan => "QDPAN"
  | .qdaddr => "QDADDR"
  | .qspan => "QSPAN"
  | .qsaddr => "QSADDR"
  | .qftype => "QFTYPE"
  | .qfcf => "QFCF"
  | .qablen => "QABLEN"
  | .qmlen => "QMLEN"
  | .ser => "SER"

end Sys2Proof
end

