-- ==== Sys2Proof/Config.lean ====
section
/-! DEFINITION. The parameters of the MFS (00_scope.md R5), and the two things the spec leaves open as
constants without a body: the draws and the base of the register window. -/

namespace Sys2Proof.Config

/-- `PAYLOAD_CAP`, bytes of the PAYLOAD RAM (R5, 90_conflicts.md C3). -/
def payloadCap : Nat := 122

/-- `MPDU_MAX`, the largest MPDU, FCS included, and the bytes of the OUTBUF RAM (R5). -/
def mpduMax : Nat := 127

/-- `FC_LEN`, bytes of the frame control field (R5). -/
def fcLen : Nat := 2

/-- `SEQ_LEN`, bytes of the sequence number (R5). -/
def seqLen : Nat := 1

/-- `FCS_LEN`, bytes of the frame check sequence, counted but never written (R5, 41_frame_codec.md R144). -/
def fcsLen : Nat := 2

/-- `draw()`, the free value (00_scope.md R9, 10_state.md R30): the n-th byte drawn. It has no body, so
nothing is provable about any draw, and two draws are unrelated (assumption 6). -/
opaque draw : Nat → Byte

/-- `MFS_BASE`, where the platform puts the 512-byte window in the host's map: OPEN, any value
(20_memory.md R42, 92_eei_decisions.md D2; assumption 7). -/
opaque mfsBase : Nat

end Sys2Proof.Config
end

