-- ==== Sys2Proof/Machine/State.lean ====
section
/-! DEFINITION. The state of the MFS (10_state.md R13), the model's own fields beside it, the state after
reset (70_reset_and_hazards.md R230), and the reasons a step can stop (60_exceptions.md R205). -/

namespace Sys2Proof.Machine

/-- The descriptor registers (10_state.md R17 to R26). -/
structure DescRegs where
  /-- FTSEL, offset 0x002 (R17): KIND [2:0]. -/
  ftsel : Byte
  /-- FTRAW, offset 0x003 (R18). -/
  ftraw : Byte
  /-- FLAGS, offset 0x004 (R19): SEC [3], PEND [4], AR [5]. -/
  flags : Byte
  /-- SEQ, offset 0x005 (R20). -/
  seq : Byte
  /-- ADDRCFG, offset 0x006 (R21): SHAPE [0], DMODE [3:2], SMODE [7:6]. -/
  addrcfg : Byte
  /-- PLEN, offset 0x007 (R22). -/
  plen : Byte
  /-- DADDR, offsets 0x008 to 0x00F, little-endian (R23). -/
  daddr : BitVec 64
  /-- DPAN, offsets 0x010 and 0x011 (R24). -/
  dpan : BitVec 16
  /-- SPAN, offsets 0x012 and 0x013 (R25). -/
  span : BitVec 16
  /-- SADDR, offsets 0x018 to 0x01F (R26). -/
  saddr : BitVec 64
  deriving DecidableEq, Repr

/-- The result registers (10_state.md R15, R16, R27, R28). -/
structure ResultRegs where
  /-- CMD, offset 0x000: the last command byte written, legal or not (R15). -/
  cmd : Byte
  /-- STATUS, offset 0x001 (R16): ERR [2:0], RVALID [4]. -/
  status : Byte
  /-- RESULT, offsets 0x020 to 0x027 (R27). -/
  result : BitVec 64
  /-- OUTLEN, offset 0x028 (R28): the number of valid OUTBUF bytes. -/
  outlen : Byte
  deriving DecidableEq, Repr

/-- The contents of a RAM: pairs of an index and its byte, indices strictly rising. An index that is not
listed has not been written since the last reset; it holds no value, and a read of it is a draw
(10_state.md R30; assumption 5). -/
abbrev Memory := List Host.Cell

/-- The kinds of model fault (60_exceptions.md R205). -/
inductive FaultKind where
  /-- RD or WR at an unmapped offset (20_memory.md R44). -/
  | unmapped
  /-- WR to STATUS, RESULT, OUTLEN or OUTBUF (42_host_bus.md R171). -/
  | roWrite
  /-- RD of `OUTBUF[i]` with `i ≥ OUTLEN` (42_host_bus.md R170). -/
  | outIndex
  deriving DecidableEq, Repr

/-- The fault record `faults`, a set of fault kinds (10_state.md R13, 60_exceptions.md R205): one Bool for
each kind, so that equal sets are equal data. -/
structure FaultRecord where
  unmapped : Bool
  roWrite : Bool
  outIndex : Bool
  deriving DecidableEq, Repr

/-- What the outside does to the block: a bus transaction of the host (00_scope.md R11), or the platform's
reset, applied between transactions (70_reset_and_hazards.md R230). -/
inductive HostEvent where
  | bus (w : BusWord)
  | rst
  deriving DecidableEq, Repr

/-- The state: the spec's tuple (10_state.md R13) with its fault record, and three fields of the model's
own (`host`, `hostReads`, `draws`). -/
structure State where
  /-- The descriptor registers. -/
  d : DescRegs
  /-- The PAYLOAD RAM (R29) with its written marks (R30): `pw[i]` is "index `i` is listed". -/
  payload : Memory
  /-- CMD, STATUS, RESULT, OUTLEN. -/
  res : ResultRegs
  /-- The OUTBUF RAM (R31); `OUTBUF[0]` is the first byte on the wire. -/
  outbuf : Memory
  /-- The fault record (R13, 60_exceptions.md R205). -/
  faults : FaultRecord
  /-- Model field: what the outside still has to do to the block, first thing first. DESIGN CHOICE
  (assumption 1). -/
  host : List HostEvent
  /-- Model field: the bytes RD has returned to the host, the latest first (42_host_bus.md R170). DESIGN
  CHOICE (assumption 2). -/
  hostReads : List Byte
  /-- Model field: how many draws have been taken (00_scope.md R9). DESIGN CHOICE (assumption 6). -/
  draws : Nat
  deriving DecidableEq, Repr

/-- Why a step stops with a model fault (60_exceptions.md R205). Each carries the state the fault leaves:
the kind recorded in `faults`, everything else as the transaction found it (assumption 3). All three are
safe: hardware may ignore the access or answer any byte, and the model stops. -/
inductive Fault where
  /-- Raised by RD and WR at an unmapped offset. Safe. -/
  | unmapped (s : State)
  /-- Raised by WR to STATUS, RESULT, OUTLEN or OUTBUF. Safe. -/
  | roWrite (s : State)
  /-- Raised by RD of an OUTBUF byte at or beyond OUTLEN. Safe. -/
  | outIndex (s : State)
  deriving DecidableEq, Repr

/-- Why a step refuses. The block itself refuses nothing (00_scope.md R12). -/
inductive Refusal where
  /-- An arm of `exec` without a meaning yet; no arm is left so. Safe. -/
  | notModelled (mnemonic : String)
  deriving DecidableEq, Repr

/-- Every descriptor register at the reset value of the register map (10_state.md section 2). -/
def DescRegs.reset : DescRegs :=
  { ftsel := 0x00#8, ftraw := 0x00#8, flags := 0x00#8, seq := 0x00#8, addrcfg := 0x00#8, plen := 0x00#8,
    daddr := 0#64, dpan := 0#16, span := 0#16, saddr := 0#64 }

/-- Every result register at the reset value of the register map (10_state.md section 2). -/
def ResultRegs.reset : ResultRegs :=
  { cmd := 0x00#8, status := 0x00#8, result := 0#64, outlen := 0x00#8 }

/-- The empty fault record. -/
def FaultRecord.empty : FaultRecord := { unmapped := false, roWrite := false, outIndex := false }

/-- The machine right after power-on reset (70_reset_and_hazards.md R230): every register at its reset
value, every written mark false, both RAMs unspecified (nothing listed). The empty record and the model's
own three fields are DESIGN CHOICES (assumptions 1, 2, 4, 6). -/
def State.reset : State :=
  { d := DescRegs.reset, payload := [], res := ResultRegs.reset, outbuf := [],
    faults := FaultRecord.empty, host := [], hostReads := [], draws := 0 }

end Sys2Proof.Machine
end

