-- ==== Sys2Proof/Machine/Ops.lean ====
section
/-! DEFINITION. The named operations over bytes, memory, registers and state: byte order, the address map,
register reads and writes, raising a model fault, the reset, and what the step fetches. -/

namespace Sys2Proof.Machine

/-! ## Bytes -/

/-- Byte `k` of a value: bits [8k+7:8k] (20_memory.md R40). -/
def byteOf {w : Nat} (v : BitVec w) (k : Nat) : Byte := v.extractLsb' (8 * k) 8

/-- The value with byte `k` replaced, every other bit as it was (R40, R43). -/
def withByte {w : Nat} (v : BitVec w) (k : Nat) (b : Byte) : BitVec w :=
  (v &&& ~~~((0xFF#8).setWidth w <<< (8 * k))) ||| (b.setWidth w <<< (8 * k))

/-- `le(v, n)`: the n-byte little-endian list of `v` (00_scope.md R8). -/
def le {w : Nat} (v : BitVec w) (n : Nat) : List Byte := (List.range n).map (byteOf v)

/-- `clean_for_write` (10_state.md R32): reserved bits take their reset value on any write. -/
def cleanForWrite (reservedMask resetValue v : Byte) : Byte :=
  (v &&& ~~~reservedMask) ||| (resetValue &&& reservedMask)

/-! ## Memory -/

/-- The byte at an index, none where nothing has been written since reset. -/
def Memory.get? : Memory → Nat → Option Byte
  | [], _ => none
  | (x, b) :: m, a => if x = a then some b else Memory.get? m a

/-- The memory with one byte stored, in canonical form. -/
def Memory.set : Memory → Nat → Byte → Memory
  | [], a, v => [(a, v)]
  | (x, b) :: m, a, v =>
    if a < x then (a, v) :: (x, b) :: m
    else if a = x then (a, v) :: m
    else (x, b) :: Memory.set m a v

/-- The memory with a list of bytes stored from an index upwards (41_frame_codec.md R160). -/
def Memory.setFrom (m : Memory) (a : Nat) : List Byte → Memory
  | [] => m
  | v :: vs => Memory.setFrom (Memory.set m a v) (a + 1) vs

/-- The canonical form: indices strictly rising. An unlisted index reads as no value at all, so no entry
can equal what an unlisted one reads as. -/
abbrev Memory.wf (m : Memory) : Prop := m.Pairwise fun x y => x.1 < y.1

/-- Every index of the RAM is below its size (10_state.md R29, R31). -/
abbrev Memory.within (m : Memory) (cap : Nat) : Prop := ∀ x ∈ m, x.1 < cap

/-! ## The address map -/

/-- What an offset names (20_memory.md R44). `k` is a byte of a multi-byte register, `i` a RAM index. -/
inductive Location where
  | cmd | status | ftsel | ftraw | flags | seq | addrcfg | plen
  | daddr (k : Nat) | dpan (k : Nat) | span (k : Nat) | saddr (k : Nat) | result (k : Nat)
  | outlen
  | payload (i : Nat)
  | outbuf (i : Nat)
  | unmapped
  deriving DecidableEq, Repr

/-- The eight one-byte registers 0x000 to 0x007 (R44). -/
def locateControl : Nat → Location
  | 0 => .cmd
  | 1 => .status
  | 2 => .ftsel
  | 3 => .ftraw
  | 4 => .flags
  | 5 => .seq
  | 6 => .addrcfg
  | _ => .plen

/-- The address map, range by range as R44 lists it. -/
def locateNat (n : Nat) : Location :=
  if n < 0x008 then locateControl n
  else if n < 0x010 then .daddr (n - 0x008)
  else if n < 0x012 then .dpan (n - 0x010)
  else if n < 0x014 then .span (n - 0x012)
  else if n < 0x018 then .unmapped
  else if n < 0x020 then .saddr (n - 0x018)
  else if n < 0x028 then .result (n - 0x020)
  else if n = 0x028 then .outlen
  else if n < 0x100 then .unmapped
  else if n < 0x17A then .payload (n - 0x100)
  else if n < 0x180 then .unmapped
  else if n < 0x1FF then .outbuf (n - 0x180)
  else .unmapped

/-- What a host offset names (R44). -/
def locate (off : Offset) : Location := locateNat off.toNat

/-- The reserved mask of a location (10_state.md section 2, R32). -/
def reservedMask : Location → Byte
  | .status => 0xE8#8
  | .ftsel => 0xF8#8
  | .flags => 0xC7#8
  | .addrcfg => 0x32#8
  | _ => 0x00#8

/-- The reset value of a register byte: 0 for every one (10_state.md section 2). -/
def resetByte (_ : Location) : Byte := 0x00#8

/-! ## Registers -/

/-- The stored byte of a location (42_host_bus.md R170): none for a RAM byte nothing has written since
reset, and for an unmapped location, which stores nothing. -/
def State.stored (s : State) : Location → Option Byte
  | .cmd => some s.res.cmd
  | .status => some s.res.status
  | .ftsel => some s.d.ftsel
  | .ftraw => some s.d.ftraw
  | .flags => some s.d.flags
  | .seq => some s.d.seq
  | .addrcfg => some s.d.addrcfg
  | .plen => some s.d.plen
  | .daddr k => some (byteOf s.d.daddr k)
  | .dpan k => some (byteOf s.d.dpan k)
  | .span k => some (byteOf s.d.span k)
  | .saddr k => some (byteOf s.d.saddr k)
  | .result k => some (byteOf s.res.result k)
  | .outlen => some s.res.outlen
  | .payload i => s.payload.get? i
  | .outbuf i => s.outbuf.get? i
  | .unmapped => none

/-- The descriptor registers with the byte of one location replaced; a location that is no byte of a
descriptor register changes none. -/
def DescRegs.put (d : DescRegs) (l : Location) (b : Byte) : DescRegs :=
  match l with
  | .ftsel => { d with ftsel := b }
  | .ftraw => { d with ftraw := b }
  | .flags => { d with flags := b }
  | .seq => { d with seq := b }
  | .addrcfg => { d with addrcfg := b }
  | .plen => { d with plen := b }
  | .daddr k => { d with daddr := withByte d.daddr k b }
  | .dpan k => { d with dpan := withByte d.dpan k b }
  | .span k => { d with span := withByte d.span k b }
  | .saddr k => { d with saddr := withByte d.saddr k b }
  | .cmd | .status | .result _ | .outlen | .payload _ | .outbuf _ | .unmapped => d

/-- A host write of `v` to a descriptor register byte stores `clean_for_write(v)` (R32, R171). -/
def State.writeReg (s : State) (l : Location) (v : Byte) : State :=
  { s with d := s.d.put l (cleanForWrite (reservedMask l) (resetByte l) v) }

/-- A host write of `PAYLOAD[i]`, which sets its written mark too (R30, R171). -/
def State.writePayload (s : State) (i : Nat) (v : Byte) : State :=
  { s with payload := s.payload.set i v }

/-- CMD stores every byte written to it, legal or not (10_state.md R15, 42_host_bus.md R173). -/
def State.storeCmd (s : State) (c : Byte) : State := { s with res := { s.res with cmd := c } }

/-- OUTLEN becomes `n` (41_frame_codec.md R160, 42_host_bus.md R176). -/
def State.setOutlen (s : State) (n : Byte) : State := { s with res := { s.res with outlen := n } }

/-- STATUS and RESULT become what a command's completion says (42_host_bus.md R174). -/
def State.report (s : State) (status : Byte) (result : BitVec 64) : State :=
  { s with res := { s.res with status := status, result := result } }

/-- The bytes of a serialized MPDU stored at `OUTBUF[0]` upwards (41_frame_codec.md R160). -/
def State.storeOutbuf (s : State) (bytes : List Byte) : State :=
  { s with outbuf := s.outbuf.setFrom 0 bytes }

/-- The draw counter becomes `n`: the draws below it are used up (00_scope.md R9). -/
def State.setDraws (s : State) (n : Nat) : State := { s with draws := n }

/-! ## What a read returns -/

/-- The host receives one byte (42_host_bus.md R170). -/
def State.pushRead (s : State) (b : Byte) : State := { s with hostReads := b :: s.hostReads }

/-- A read returns the stored byte, or a fresh draw where nothing is stored (10_state.md R30). -/
def State.respond (s : State) : Option Byte → State
  | some b => s.pushRead b
  | none => (s.pushRead (Config.draw s.draws)).setDraws (s.draws + 1)

/-! ## Model faults (60_exceptions.md R205) -/

/-- Whether a kind is in the record. -/
def FaultRecord.has (f : FaultRecord) : FaultKind → Bool
  | .unmapped => f.unmapped
  | .roWrite => f.roWrite
  | .outIndex => f.outIndex

/-- The record with a kind added. -/
def FaultRecord.add (f : FaultRecord) : FaultKind → FaultRecord
  | .unmapped => { f with unmapped := true }
  | .roWrite => { f with roWrite := true }
  | .outIndex => { f with outIndex := true }

/-- The state with a kind recorded in `faults`, all other state unchanged. -/
def State.record (s : State) (k : FaultKind) : State := { s with faults := s.faults.add k }

/-- The fault of a kind, at the state it leaves. -/
def FaultKind.fault (s : State) : FaultKind → Fault
  | .unmapped => .unmapped s
  | .roWrite => .roWrite s
  | .outIndex => .outIndex s

/-- The kind of a fault. -/
def Fault.kind : Fault → FaultKind
  | .unmapped _ => .unmapped
  | .roWrite _ => .roWrite
  | .outIndex _ => .outIndex

/-- The state a fault leaves (assumption 3). -/
def Fault.state : Fault → State
  | .unmapped s => s
  | .roWrite s => s
  | .outIndex s => s

/-- `raise Fault(kind)`: the one way a transaction faults (00_scope.md R9, 60_exceptions.md R205). The
kind is recorded and nothing else changes. There is no return from it: the record is never cleared. -/
def State.raise (s : State) (k : FaultKind) : Host.Outcome State Fault Refusal :=
  .fault (k.fault (s.record k))

/-! ## Reset and fetch -/

/-- The platform's reset (70_reset_and_hazards.md R230): every register to its reset value, every written
mark false, both RAMs unspecified; the fault record is not cleared, and the model's own fields stay. -/
def State.applyReset (s : State) : State :=
  { s with d := DescRegs.reset, payload := [], res := ResultRegs.reset, outbuf := [] }

/-- What the outside does next, with the state from which it is taken (00_scope.md R11; assumption 1). -/
def State.fetch (s : State) : Option (HostEvent × State) :=
  match s.host with
  | [] => none
  | e :: rest => some (e, { s with host := rest })

/-- The state with one bus word in front of everything the outside still has to do. -/
def State.withBusWord (s : State) (w : BusWord) : State := { s with host := .bus w :: s.host }

/-- Where the host sees the byte at an offset (42_host_bus.md R178, 92_eei_decisions.md D2). -/
def hostAddress (off : Offset) : Nat := Config.mfsBase + off.toNat

end Sys2Proof.Machine
end

