-- ==== Sys2Proof/Machine/Flags.lean ====
section
/-! DEFINITION. STATUS, the only flags of the MFS (10_state.md R16, R33), the error codes
(60_exceptions.md R200) and the three completions every command ends with (42_host_bus.md R174). -/

namespace Sys2Proof.Machine

/-- The command error codes (60_exceptions.md R200). -/
inductive ErrCode where
  /-- The command succeeded. -/
  | none
  /-- `mpdu_length > 127`; SER only. -/
  | oversize
  /-- The descriptor is invalid. -/
  | baddesc
  /-- The command byte is not in the opcode map. -/
  | badcmd
  deriving DecidableEq, Repr

/-- The code in STATUS.ERR (R200). -/
def ErrCode.code : ErrCode → BitVec 3
  | .none => 0#3
  | .oversize => 1#3
  | .baddesc => 2#3
  | .badcmd => 3#3

/-- STATUS with ERR at [2:0], RVALID at [4] and every reserved bit 0 (10_state.md R16, R32). -/
def statusByte (err : ErrCode) (rvalid : Bool) : Byte :=
  err.code.setWidth 8 ||| ((BitVec.ofBool rvalid).setWidth 8 <<< 4)

/-- STATUS.ERR (R16). -/
def ResultRegs.err (r : ResultRegs) : BitVec 3 := r.status.extractLsb' 0 3

/-- STATUS.RVALID (R16). -/
def ResultRegs.rvalid (r : ResultRegs) : Bool := r.status.getLsbD 4

/-- `complete(v)` (42_host_bus.md R174). -/
def State.complete {w : Nat} (s : State) (v : BitVec w) : State :=
  s.report (statusByte .none true) (v.setWidth 64)

/-- `complete_none()` (R174). -/
def State.completeNone (s : State) : State := s.report (statusByte .none false) 0#64

/-- `fail(code)` (R174). -/
def State.fail (s : State) (e : ErrCode) : State := s.report (statusByte e false) 0#64

/-- A query of an Option: `Some(v)` completes with the value, `None` with none (40_address_model.md R123
to R126, 92_eei_decisions.md D28). -/
def State.completeOption {w : Nat} (s : State) : Option (BitVec w) → State
  | some v => s.complete v
  | none => s.completeNone

end Sys2Proof.Machine
end

