-- ==== Sys2Proof/Machine/AddressModel.lean ====
section
/-! DEFINITION. The address model (00_scope.md R10, 40_address_model.md R100 to R111): pure data and its
accessors. -/

namespace Sys2Proof.Machine

/-- An address of one of two kinds (R100). -/
inductive Address where
  | short (s : BitVec 16)
  | long (l : BitVec 64)
  deriving DecidableEq, Repr

/-- An address that always carries its PAN identifier (R103). -/
structure FullAddress where
  address : Address
  panId : BitVec 16
  deriving DecidableEq, Repr

/-- The two shapes, `Local` and `Full` (R104). One is never turned into the other. -/
inductive Addresses where
  | localShape (sourceAddress : Address) (destination : FullAddress)
  | fullShape (source destination : Option FullAddress)
  deriving DecidableEq, Repr

/-- `address_mode(a)` (R101). -/
def addressMode : Address → BitVec 2
  | .short _ => 0b10#2
  | .long _ => 0b11#2

/-- `mode_of(o)` (R102). -/
def modeOf : Option Address → BitVec 2
  | none => 0b00#2
  | some a => addressMode a

/-- `is_within_pan(a)` (R105): the shape only, never the PAN IDs. -/
def isWithinPan : Addresses → Bool
  | .localShape _ _ => true
  | .fullShape _ _ => false

/-- `destination_address(a)` (R106). -/
def destinationAddress : Addresses → Option Address
  | .localShape _ d => some d.address
  | .fullShape _ (some d) => some d.address
  | .fullShape _ none => none

/-- `destination_pan_id(a)` (R107). -/
def destinationPanId : Addresses → Option (BitVec 16)
  | .localShape _ d => some d.panId
  | .fullShape _ (some d) => some d.panId
  | .fullShape _ none => none

/-- `source_address(a)` (R108). -/
def sourceAddress : Addresses → Option Address
  | .localShape s _ => some s
  | .fullShape (some f) _ => some f.address
  | .fullShape none _ => none

/-- `source_pan_id(a)` (R109): none for the Local shape, whose source PAN is implied. -/
def sourcePanId : Addresses → Option (BitVec 16)
  | .localShape _ _ => none
  | .fullShape (some f) _ => some f.panId
  | .fullShape none _ => none

/-- `destination_mode(a)` (R110). -/
def destinationMode (a : Addresses) : BitVec 2 := modeOf (destinationAddress a)

/-- `source_mode(a)` (R111). -/
def sourceMode (a : Addresses) : BitVec 2 := modeOf (sourceAddress a)

/-- An address zero-extended into RESULT (R124, R126). -/
def addressValue : Address → BitVec 64
  | .short s => s.setWidth 64
  | .long l => l

end Sys2Proof.Machine
end

