-- ==== Sys2Proof/Machine/FrameCodec.lean ====
section
/-! DEFINITION. The frame codec as pure functions (41_frame_codec.md R130 to R149): frame type code, frame
control, address block, lengths. -/

namespace Sys2Proof.Machine

/-- The frame types (R130). -/
inductive FrameType where
  | beacon
  | data
  | acknowledge
  | macCommand
  | other (v : Byte)
  deriving DecidableEq, Repr

/-- The frame descriptor: the Frame of the data model with `payload_length` in place of the payload list
(00_scope.md R10, 30_encoding.md R70, R132). -/
structure FrameDesc where
  frameType : FrameType
  securityEnabled : Bool
  framePending : Bool
  acknowledgmentRequest : Bool
  sequenceNumber : Byte
  addresses : Addresses
  payloadLength : Nat
  deriving DecidableEq, Repr

/-- `ft_code(t)` (R131). The codes of the named types are the spec's decision D6. -/
def ftCode : FrameType → BitVec 3
  | .beacon => 0b000#3
  | .data => 0b001#3
  | .acknowledge => 0b010#3
  | .macCommand => 0b011#3
  | .other v => v.extractLsb' 0 3

/-- A condition as the bit `1` or `0` at a place of a frame control byte (R136). -/
def flagBit (b : Bool) (n : Nat) : Byte := (BitVec.ofBool b).setWidth 8 <<< n

/-- `fcf0(fd)`, frame control byte 0; bit 7 is 0 (R136, R138). -/
def fcf0 (fd : FrameDesc) : Byte :=
  (ftCode fd.frameType).setWidth 8
    ||| flagBit fd.securityEnabled 3
    ||| flagBit fd.framePending 4
    ||| flagBit fd.acknowledgmentRequest 5
    ||| flagBit (isWithinPan fd.addresses) 6

/-- `fcf1(fd)`, frame control byte 1; bits [1:0] and [5:4] are 0 (R137, R138). -/
def fcf1 (fd : FrameDesc) : Byte :=
  ((destinationMode fd.addresses).setWidth 8 <<< 2) ||| ((sourceMode fd.addresses).setWidth 8 <<< 6)

/-- `addr_bytes(o)` (R141). -/
def addrBytes : Option Address → List Byte
  | none => []
  | some (.short s) => le s 2
  | some (.long l) => le l 8

/-- `pan_bytes(o)` (R141). -/
def panBytes : Option (BitVec 16) → List Byte
  | none => []
  | some p => le p 2

/-- `address_block(a)`: destination address, destination PAN ID, source address, source PAN ID (R140,
90_conflicts.md C2). -/
def addressBlock (a : Addresses) : List Byte :=
  addrBytes (destinationAddress a) ++ panBytes (destinationPanId a)
    ++ addrBytes (sourceAddress a) ++ panBytes (sourcePanId a)

/-- `address_block_length(a)` (R142). -/
def addressBlockLength (a : Addresses) : Nat := (addressBlock a).length

/-- `mpdu_length(fd)`, exact and without wrap, FCS included (R146). -/
def mpduLength (fd : FrameDesc) : Nat :=
  Config.fcLen + Config.seqLen + addressBlockLength fd.addresses + fd.payloadLength + Config.fcsLen

/-- The three header bytes before the address block (R135, R136, R137, R139). -/
def headerBytes (fd : FrameDesc) : List Byte := [fcf0 fd, fcf1 fd, fd.sequenceNumber]

end Sys2Proof.Machine
end

