-- ==== Sys2Proof/Machine/Operands.lean ====
section
/-! DEFINITION. The operands of the commands: the descriptor registers read as the source's data model
(30_encoding.md R70 to R75), and the serialize function over them (41_frame_codec.md R143, R150). -/

namespace Sys2Proof.Machine

/-! ## Fields of the descriptor registers -/

/-- FTSEL.KIND (10_state.md R17). -/
def DescRegs.kind (d : DescRegs) : BitVec 3 := d.ftsel.extractLsb' 0 3

/-- FLAGS.SEC (R19). -/
def DescRegs.sec (d : DescRegs) : Bool := d.flags.getLsbD 3

/-- FLAGS.PEND (R19). -/
def DescRegs.pend (d : DescRegs) : Bool := d.flags.getLsbD 4

/-- FLAGS.AR (R19). -/
def DescRegs.ar (d : DescRegs) : Bool := d.flags.getLsbD 5

/-- ADDRCFG.SHAPE (R21): true for Local. -/
def DescRegs.shape (d : DescRegs) : Bool := d.addrcfg.getLsbD 0

/-- ADDRCFG.DMODE (R21). -/
def DescRegs.dmode (d : DescRegs) : BitVec 2 := d.addrcfg.extractLsb' 2 2

/-- ADDRCFG.SMODE (R21). -/
def DescRegs.smode (d : DescRegs) : BitVec 2 := d.addrcfg.extractLsb' 6 2

/-! ## desc(S) -/

/-- `decode_ft(k, raw)` (30_encoding.md R71); none is Invalid. -/
def decodeFt (k : BitVec 3) (raw : Byte) : Option FrameType :=
  if k = 0#3 then some .beacon
  else if k = 1#3 then some .data
  else if k = 2#3 then some .acknowledge
  else if k = 3#3 then some .macCommand
  else if k = 4#3 then some (.other raw)
  else none

/-- What `decode_address` gives (R72). -/
inductive AddressOperand where
  | absent
  | present (a : Address)
  | invalid
  deriving DecidableEq, Repr

/-- `decode_address(mode, raw64)` (R72, R73): a Short address is the low 16 bits. -/
def decodeAddress (mode : BitVec 2) (raw : BitVec 64) : AddressOperand :=
  if mode = 0b00#2 then .absent
  else if mode = 0b10#2 then .present (.short (raw.extractLsb' 0 16))
  else if mode = 0b11#2 then .present (.long raw)
  else .invalid

/-- The two decoded operands joined in a shape (R72); none is Invalid. -/
def joinAddresses (isLocal : Bool) (dpan span : BitVec 16) : AddressOperand → AddressOperand → Option Addresses
  | .invalid, _ => none
  | _, .invalid => none
  | .absent, .absent => if isLocal then none else some (.fullShape none none)
  | .absent, .present s => if isLocal then none else some (.fullShape (some ⟨s, span⟩) none)
  | .present t, .absent => if isLocal then none else some (.fullShape none (some ⟨t, dpan⟩))
  | .present t, .present s =>
    if isLocal then some (.localShape s ⟨t, dpan⟩)
    else some (.fullShape (some ⟨s, span⟩) (some ⟨t, dpan⟩))

/-- `decode_addresses(S)` (R72); none is Invalid. -/
def decodeAddresses (d : DescRegs) : Option Addresses :=
  joinAddresses d.shape d.dpan d.span (decodeAddress d.dmode d.daddr) (decodeAddress d.smode d.saddr)

/-- `desc(S)` (R70, R74, R75). It reads the descriptor registers and nothing else; none is Invalid. -/
def desc (d : DescRegs) : Option FrameDesc :=
  match decodeFt d.kind d.ftraw, decodeAddresses d with
  | some ft, some ad =>
    some { frameType := ft
           securityEnabled := d.sec
           framePending := d.pend
           acknowledgmentRequest := d.ar
           sequenceNumber := d.seq
           addresses := ad
           payloadLength := d.plen.toNat }
  | _, _ => none

/-! ## The payload and serialize -/

/-- The payload bytes from index `i`, `n` of them, with the draw counter after them: a byte not written
since reset takes a fresh draw (30_encoding.md R75, 41_frame_codec.md R143). -/
def payloadFrom (m : Memory) (i draws : Nat) : Nat → List Byte × Nat
  | 0 => ([], draws)
  | n + 1 =>
    match m.get? i with
    | some b =>
      let r := payloadFrom m (i + 1) draws n
      (b :: r.1, r.2)
    | none =>
      let r := payloadFrom m (i + 1) (draws + 1) n
      (Config.draw draws :: r.1, r.2)

/-- `payload_list(S)` for a payload of `n` bytes (R75), with the draw counter after it. -/
def State.payloadList (s : State) (n : Nat) : List Byte × Nat := payloadFrom s.payload 0 s.draws n

/-- `Ok(bytes, L)` of `serialize` (R150), with the draw counter after it. -/
structure Mpdu where
  bytes : List Byte
  length : Nat
  draws : Nat
  deriving DecidableEq, Repr

/-- `serialize(fd, S)` (R150): the oversize refusal first (R147), then the header, the address block and the
payload (R135). No FCS and no security header is written (R144, R145). -/
def serialize (fd : FrameDesc) (s : State) : Except ErrCode Mpdu :=
  if Config.mpduMax < mpduLength fd then .error .oversize
  else
    let p := s.payloadList fd.payloadLength
    .ok { bytes := headerBytes fd ++ addressBlock fd.addresses ++ p.1
          length := mpduLength fd
          draws := p.2 }

/-! ## The command template -/

/-- `BADDESC_PATH(c)` (42_host_bus.md R176): SER leaves no readable buffer. -/
def State.badDesc (s : State) (c : Byte) : State :=
  if c = 0x20#8 then (s.setOutlen 0#8).fail .baddesc else s.fail .baddesc

/-- `COMMAND(c)` for a legal command byte (R173): CMD takes the byte, the descriptor is decoded from the
state before, and the command's rule runs on a valid one. No command faults. -/
def runCommand (c : Byte) (rule : FrameDesc → State → State) (s : State) :
    Host.Outcome State Fault Refusal :=
  match desc s.d with
  | none => .next ((s.storeCmd c).badDesc c)
  | some fd => .next (rule fd (s.storeCmd c))

end Sys2Proof.Machine
end

