-- ==== Sys2Proof/Machine/AddressQuery.lean ====
section
/-! DEFINITION. The seven address queries (40_address_model.md R120 to R126). -/

namespace Sys2Proof.Machine

/-- QWPAN (R120). -/
def execQwpan (s : State) : Host.Outcome State Fault Refusal :=
  runCommand 0x10#8 (fun fd t => t.complete (BitVec.ofBool (isWithinPan fd.addresses))) s

/-- QDMODE (R121). -/
def execQdmode (s : State) : Host.Outcome State Fault Refusal :=
  runCommand 0x11#8 (fun fd t => t.complete (destinationMode fd.addresses)) s

/-- QSMODE (R122). -/
def execQsmode (s : State) : Host.Outcome State Fault Refusal :=
  runCommand 0x12#8 (fun fd t => t.complete (sourceMode fd.addresses)) s

/-- QDPAN (R123). -/
def execQdpan (s : State) : Host.Outcome State Fault Refusal :=
  runCommand 0x13#8 (fun fd t => t.completeOption (destinationPanId fd.addresses)) s

/-- QDADDR (R124). -/
def execQdaddr (s : State) : Host.Outcome State Fault Refusal :=
  runCommand 0x14#8 (fun fd t => t.completeOption ((destinationAddress fd.addresses).map addressValue)) s

/-- QSPAN (R125). -/
def execQspan (s : State) : Host.Outcome State Fault Refusal :=
  runCommand 0x15#8 (fun fd t => t.completeOption (sourcePanId fd.addresses)) s

/-- QSADDR (R126). -/
def execQsaddr (s : State) : Host.Outcome State Fault Refusal :=
  runCommand 0x16#8 (fun fd t => t.completeOption ((sourceAddress fd.addresses).map addressValue)) s

end Sys2Proof.Machine
end

