-- ==== Sys2Proof/Machine/CodecCommand.lean ====
section
/-! DEFINITION. The five codec commands (41_frame_codec.md R155 to R160). -/

namespace Sys2Proof.Machine

/-- QFTYPE (R155). -/
def execQftype (s : State) : Host.Outcome State Fault Refusal :=
  runCommand 0x17#8 (fun fd t => t.complete (ftCode fd.frameType)) s

/-- QFCF (R156): `fcf1(fd) << 8 | fcf0(fd)`. -/
def execQfcf (s : State) : Host.Outcome State Fault Refusal :=
  runCommand 0x18#8 (fun fd t => t.complete (((fcf1 fd).setWidth 16 <<< 8) ||| (fcf0 fd).setWidth 16)) s

/-- QABLEN (R157). -/
def execQablen (s : State) : Host.Outcome State Fault Refusal :=
  runCommand 0x19#8 (fun fd t => t.complete (BitVec.ofNat 64 (addressBlockLength fd.addresses))) s

/-- QMLEN (R158): the exact length, also above 127. -/
def execQmlen (s : State) : Host.Outcome State Fault Refusal :=
  runCommand 0x1A#8 (fun fd t => t.complete (BitVec.ofNat 64 (mpduLength fd))) s

/-- What SER writes when `serialize` gives `Ok` or `Err` (R160). -/
def State.finishSer (s : State) : Except ErrCode Mpdu → State
  | .error e => (s.setOutlen 0#8).fail e
  | .ok m =>
    (((s.storeOutbuf m.bytes).setOutlen (BitVec.ofNat 8 m.bytes.length)).setDraws m.draws).complete
      (BitVec.ofNat 64 m.length)

/-- SER (R160). -/
def execSer (s : State) : Host.Outcome State Fault Refusal :=
  runCommand 0x20#8 (fun fd t => t.finishSer (serialize fd t)) s

end Sys2Proof.Machine
end

