-- ==== Sys2Proof/Machine/Bus.lean ====
section
/-! DEFINITION. The transactions RD and WR and the illegal commands (42_host_bus.md R170, R171, R175). -/

namespace Sys2Proof.Machine

/-- RD (R170): one byte to the host, no hardware state changed. -/
def execRd (off : Offset) (s : State) : Host.Outcome State Fault Refusal :=
  match locate off with
  | .unmapped => s.raise .unmapped
  | .outbuf i =>
    if i < s.res.outlen.toNat then .next (s.respond (s.stored (.outbuf i))) else s.raise .outIndex
  | l => .next (s.respond (s.stored l))

/-- CMDX (R175): the byte stays in CMD, the descriptor is not looked at. -/
def execCmdx (c : Byte) (s : State) : Host.Outcome State Fault Refusal :=
  .next ((s.storeCmd c).fail .badcmd)

/-- `COMMAND(c)`, the dispatch of a write of any byte to CMD (R173). -/
def commandWrite (c : Byte) (s : State) : Host.Outcome State Fault Refusal :=
  match decodeCommand c with
  | .qwpan => execQwpan s
  | .qdmode => execQdmode s
  | .qsmode => execQsmode s
  | .qdpan => execQdpan s
  | .qdaddr => execQdaddr s
  | .qspan => execQspan s
  | .qsaddr => execQsaddr s
  | .qftype => execQftype s
  | .qfcf => execQfcf s
  | .qablen => execQablen s
  | .qmlen => execQmlen s
  | .ser => execSer s
  | .cmdx _ | .rd _ | .wr _ _ => execCmdx c s

/-- WR (R171). A bus word with offset 0x000 never decodes to WR (30_encoding.md R61); on the ill-formed term
`wr 0 c` the meaning is the command write that word is (R173). -/
def execWr (off : Offset) (v : Byte) (s : State) : Host.Outcome State Fault Refusal :=
  match locate off with
  | .cmd => commandWrite v s
  | .unmapped => s.raise .unmapped
  | .status | .result _ | .outlen | .outbuf _ => s.raise .roWrite
  | .payload i => .next (s.writePayload i v)
  | l => .next (s.writeReg l v)

end Sys2Proof.Machine
end

