-- ==== Sys2Proof/Machine/Dispatch.lean ====
section
/-! DEFINITION. One arm for each constructor of `Instr`. -/

namespace Sys2Proof.Machine

def exec (i : Instr) (s : State) : Host.Outcome State Fault Refusal :=
  match i with
  | .rd off => Sys2Proof.Machine.execRd off s
  | .wr off v => Sys2Proof.Machine.execWr off v s
  | .cmdx c => Sys2Proof.Machine.execCmdx c s
  | .qwpan => Sys2Proof.Machine.execQwpan s
  | .qdmode => Sys2Proof.Machine.execQdmode s
  | .qsmode => Sys2Proof.Machine.execQsmode s
  | .qdpan => Sys2Proof.Machine.execQdpan s
  | .qdaddr => Sys2Proof.Machine.execQdaddr s
  | .qspan => Sys2Proof.Machine.execQspan s
  | .qsaddr => Sys2Proof.Machine.execQsaddr s
  | .qftype => Sys2Proof.Machine.execQftype s
  | .qfcf => Sys2Proof.Machine.execQfcf s
  | .qablen => Sys2Proof.Machine.execQablen s
  | .qmlen => Sys2Proof.Machine.execQmlen s
  | .ser => Sys2Proof.Machine.execSer s

end Sys2Proof.Machine
end

