-- ==== Sys2Proof/Machine/Step.lean ====
section
/-! DEFINITION. One step of the machine, and the placing of an instruction as its next one. -/

namespace Sys2Proof.Machine

/-- One step takes the next thing the outside does: a bus word is decoded and executed (00_scope.md R11), a
reset is applied (70_reset_and_hazards.md R230). With nothing to do the block does nothing: it has no step
of its own (R11, R232; assumption 1). -/
def step (s : State) : Host.Outcome State Fault Refusal :=
  match s.fetch with
  | none => .next s
  | some (.bus w, t) => exec (decode w) t
  | some (.rst, t) => .next t.applyReset

/-- The state with the instruction of bits `w` as the host's next transaction (assumption 1); unchanged
where the number is no bus word. -/
def State.withFetchWord (s : State) (_nbits w : Nat) : State :=
  match busWordOfNat w with
  | .ok b => s.withBusWord b
  | .error _ => s

end Sys2Proof.Machine
end

