-- ==== Sys2Proof/Machine/Frame.lean ====
section
/-! DEFINITION. The source's Frame (00_scope.md R10), and how a host describes one in the registers
(30_encoding.md R76): every Frame of the data model has a register state. -/

namespace Sys2Proof.Machine

/-- The MAC frame before wire encoding (R10). -/
structure Frame where
  frameType : FrameType
  securityEnabled : Bool
  framePending : Bool
  acknowledgmentRequest : Bool
  sequenceNumber : Byte
  addresses : Addresses
  payload : List Byte
  deriving DecidableEq, Repr

/-- The frame with the payload's length in place of the payload (30_encoding.md R70). -/
def Frame.desc (f : Frame) : FrameDesc :=
  { frameType := f.frameType
    securityEnabled := f.securityEnabled
    framePending := f.framePending
    acknowledgmentRequest := f.acknowledgmentRequest
    sequenceNumber := f.sequenceNumber
    addresses := f.addresses
    payloadLength := f.payload.length }

/-- FTSEL.KIND of a frame type (R71, inverse). -/
def kindOf : FrameType → BitVec 3
  | .beacon => 0#3
  | .data => 1#3
  | .acknowledge => 2#3
  | .macCommand => 3#3
  | .other _ => 4#3

/-- FTRAW of a frame type: read only for `Other` (R71). -/
def rawOf : FrameType → Byte
  | .other v => v
  | .beacon | .data | .acknowledge | .macCommand => 0#8

/-- ADDRCFG of an address shape (10_state.md R21). -/
def addrcfgOf (a : Addresses) : Byte :=
  (BitVec.ofBool (isWithinPan a)).setWidth 8
    ||| ((destinationMode a).setWidth 8 <<< 2) ||| ((sourceMode a).setWidth 8 <<< 6)

/-- The registers in which a host describes a frame (R76); fields the frame does not use are 0. -/
def describe (fd : FrameDesc) : DescRegs :=
  { ftsel := (kindOf fd.frameType).setWidth 8
    ftraw := rawOf fd.frameType
    flags := flagBit fd.securityEnabled 3 ||| flagBit fd.framePending 4
      ||| flagBit fd.acknowledgmentRequest 5
    seq := fd.sequenceNumber
    addrcfg := addrcfgOf fd.addresses
    plen := BitVec.ofNat 8 fd.payloadLength
    daddr := ((destinationAddress fd.addresses).map addressValue).getD 0#64
    dpan := (destinationPanId fd.addresses).getD 0#16
    span := (sourcePanId fd.addresses).getD 0#16
    saddr := ((sourceAddress fd.addresses).map addressValue).getD 0#64 }

/-- The state with a frame described in its registers and its payload written (70_reset_and_hazards.md R235
steps 1 and 2). -/
def State.withFrame (s : State) (f : Frame) : State :=
  { s with d := describe f.desc, payload := s.payload.setFrom 0 f.payload }

/-- The frame a register state gives (R70, R75): none where the descriptor is invalid, where PLEN is above the
capacity, or where a payload byte has not been written, so that the frame would carry a draw. -/
def State.frame (s : State) : Option Frame :=
  match desc s.d with
  | none => none
  | some fd =>
    if fd.payloadLength ≤ Config.payloadCap
        && (List.range fd.payloadLength).all (fun i => (s.payload.get? i).isSome) then
      some { frameType := fd.frameType
             securityEnabled := fd.securityEnabled
             framePending := fd.framePending
             acknowledgmentRequest := fd.acknowledgmentRequest
             sequenceNumber := fd.sequenceNumber
             addresses := fd.addresses
             payload := (s.payloadList fd.payloadLength).1 }
    else none

/-- The source's `serialize(frame) -> (bytes, length)` as a function of the frame alone (41_frame_codec.md
R150); none is the oversize refusal (R147). -/
def serializeFrame (f : Frame) : Option (List Byte × Nat) :=
  if Config.mpduMax < mpduLength f.desc then none
  else some (headerBytes f.desc ++ addressBlock f.addresses ++ f.payload, mpduLength f.desc)

end Sys2Proof.Machine
end

