-- ==== Sys2Proof/Machine/Program.lean ====
section
/-! DEFINITION. Host programs as lists of transactions, and the pseudo-instructions (30_encoding.md R80 to
R82). -/

namespace Sys2Proof.Machine

/-- `WR off, v` as a program writes it: at offset 0x000 it is a command write, not a plain WR (R80, R61). -/
def writeTransaction (off : Offset) (v : Byte) : Instr := decode (busWrite off v)

/-- Writes of a list of bytes at rising offsets. -/
def writesFrom (base : Nat) : List Byte → List Instr
  | [] => []
  | b :: bs => writeTransaction (BitVec.ofNat 9 base) b :: writesFrom (base + 1) bs

/-- Reads at `n` rising offsets. -/
def readsFrom (base : Nat) : Nat → List Instr
  | 0 => []
  | n + 1 => .rd (BitVec.ofNat 9 base) :: readsFrom (base + 1) n

/-- The pseudo-instructions (R81). -/
inductive Pseudo where
  | wr16 (base : Offset) (v : BitVec 16)
  | wr64 (base : Offset) (v : BitVec 64)
  | rd16 (base : Offset)
  | rd64 (base : Offset)
  | wrbuf (base : Offset) (bytes : List Byte)
  | rdbuf (base : Offset) (n : Nat)
  deriving DecidableEq, Repr

/-- How many offsets a pseudo-instruction touches. -/
def Pseudo.span : Pseudo → Nat
  | .wr16 _ _ => 2
  | .wr64 _ _ => 8
  | .rd16 _ => 2
  | .rd64 _ => 8
  | .wrbuf _ bytes => bytes.length
  | .rdbuf _ n => n

/-- The offset a pseudo-instruction starts at. -/
def Pseudo.base : Pseudo → Offset
  | .wr16 b _ => b
  | .wr64 b _ => b
  | .rd16 b => b
  | .rd64 b => b
  | .wrbuf b _ => b
  | .rdbuf b _ => b

/-- Every offset `base + i` it touches exists: none is above 0x1FF (20_memory.md R42). -/
def Pseudo.fits (p : Pseudo) : Bool := decide (p.base.toNat + p.span ≤ 0x200)

/-- The expansion, in the order R81 shows; for one that fits. -/
def Pseudo.expand : Pseudo → List Instr
  | .wr16 base v => writesFrom base.toNat (le v 2)
  | .wr64 base v => writesFrom base.toNat (le v 8)
  | .rd16 base => readsFrom base.toNat 2
  | .rd64 base => readsFrom base.toNat 8
  | .wrbuf base bytes => writesFrom base.toNat bytes
  | .rdbuf base n => readsFrom base.toNat n

/-- The value of the bytes read at rising offsets: the sum of `byte_k · 256^k` (R81). -/
def readValue : List Byte → Nat
  | [] => 0
  | b :: bs => b.toNat + 256 * readValue bs

/-- A program's bus words (R82). -/
def encodeProgram (p : List Instr) : List BusWord := p.map encode

/-- The state whose host goes on to issue a program after everything it already has to do (assumption 1). -/
def State.issue (s : State) (p : List Instr) : State :=
  { s with host := s.host ++ (encodeProgram p).map .bus }

/-- The transactions of a program run in order, each complete before the next (20_memory.md R47); none where
one of them stops. -/
def execAll : List Instr → State → Option State
  | [], s => some s
  | i :: is, s =>
    match exec i s with
    | .next t => execAll is t
    | .fault _ => none
    | .refused _ => none

end Sys2Proof.Machine
end

