-- ==== Sys2Proof/Safety.lean ====
section
/-! DEFINITION. What counts as a safe run, in the terms the claims use: a valid descriptor, a payload fully
written, a state without fault, and the invariant of the machine. -/

namespace Sys2Proof.Machine

/-- A descriptor that is valid, by the conditions R176 lists (42_host_bus.md). -/
def DescRegs.valid (d : DescRegs) : Bool :=
  decide (d.kind.toNat < 5) && d.dmode != 0b01#2 && d.smode != 0b01#2
    && (!d.shape || (d.dmode != 0b00#2 && d.smode != 0b00#2))

/-- The written mark `pw[i]` (10_state.md R30). -/
def State.pw (s : State) (i : Nat) : Bool := (s.payload.get? i).isSome

/-- Every payload byte a SER reads has been written since reset (70_reset_and_hazards.md R246). -/
abbrev State.payloadReady (s : State) : Prop := ∀ i < s.d.plen.toNat, s.pw i = true

/-- A faulted state (60_exceptions.md R205). -/
def State.faulted (s : State) : Bool := s.faults.unmapped || s.faults.roWrite || s.faults.outIndex

/-- A final state. R205 says that a faulted state is never final. It does not say when another state is; that one
is final when the outside has nothing left to do is a DESIGN CHOICE (assumption 13). -/
def State.final (s : State) : Bool := s.host.isEmpty && !s.faulted

/-- The unmapped offsets, range by range (93_implementation_defined.md U3). -/
def unmappedOffset (n : Nat) : Bool :=
  (decide (0x014 ≤ n) && decide (n ≤ 0x017)) || (decide (0x029 ≤ n) && decide (n ≤ 0x0FF))
    || (decide (0x17A ≤ n) && decide (n ≤ 0x17F)) || n == 0x1FF

/-- The read-only offsets: STATUS, RESULT0 to RESULT7, OUTLEN and OUTBUF (60_exceptions.md R205). -/
def readOnlyOffset (n : Nat) : Bool :=
  n == 0x001 || (decide (0x020 ≤ n) && decide (n ≤ 0x028)) || (decide (0x180 ≤ n) && decide (n ≤ 0x1FE))

/-- The host-contract violation of a kind: the transaction `w` on the state `s` (R205's table). -/
abbrev State.violates (s : State) (w : BusWord) : FaultKind → Prop
  | .unmapped => unmappedOffset w.off.toNat = true
  | .roWrite => w.isWrite = true ∧ readOnlyOffset w.off.toNat = true
  | .outIndex => w.isWrite = false ∧ 0x180 + s.res.outlen.toNat ≤ w.off.toNat ∧ w.off.toNat ≤ 0x1FE

/-- The command byte of each of the twelve commands (30_encoding.md R63); none for the other transactions. -/
def commandByte : Instr → Option Byte
  | .qwpan => some 0x10#8
  | .qdmode => some 0x11#8
  | .qsmode => some 0x12#8
  | .qdpan => some 0x13#8
  | .qdaddr => some 0x14#8
  | .qspan => some 0x15#8
  | .qsaddr => some 0x16#8
  | .qftype => some 0x17#8
  | .qfcf => some 0x18#8
  | .qablen => some 0x19#8
  | .qmlen => some 0x1A#8
  | .ser => some 0x20#8
  | .rd _ | .wr _ _ | .cmdx _ => none

/-- The state with CMD, STATUS and RESULT as given and nothing else changed (42_host_bus.md R172). -/
def State.afterCommand (s : State) (cmd status : Byte) (result : BitVec 64) : State :=
  { s with res := { s.res with cmd := cmd, status := status, result := result } }

/-- How many bytes with index below `n` have not been written since reset: how many draws a SER of that many
payload bytes takes (10_state.md R30). -/
def unwrittenBefore (m : Memory) (n : Nat) : Nat := (List.range n).countP fun i => (m.get? i).isNone

/-- The address block length of each valid ADDRCFG, row by row (41_frame_codec.md R142). -/
def blockLengthTable : List (Byte × Nat) :=
  [(0x89#8, 6), (0xC9#8, 12), (0x8D#8, 12), (0xCD#8, 18),
   (0x00#8, 0), (0x80#8, 4), (0xC0#8, 10), (0x08#8, 4), (0x88#8, 8), (0xC8#8, 14),
   (0x0C#8, 10), (0x8C#8, 14), (0xCC#8, 20)]

/-- Two descriptors that differ only in what R76 lets differ (30_encoding.md): reserved bits, FTRAW for a
KIND other than 4, bits [63:16] of a Short address register, and address registers R72 does not read. -/
abbrev DescRegs.sameUsed (d e : DescRegs) : Prop :=
  d.kind = e.kind ∧ (d.kind = 4#3 → d.ftraw = e.ftraw)
    ∧ d.sec = e.sec ∧ d.pend = e.pend ∧ d.ar = e.ar ∧ d.seq = e.seq ∧ d.plen = e.plen
    ∧ d.shape = e.shape ∧ d.dmode = e.dmode ∧ d.smode = e.smode
    ∧ (d.dmode = 0b10#2 → d.daddr.extractLsb' 0 16 = e.daddr.extractLsb' 0 16)
    ∧ (d.dmode = 0b11#2 → d.daddr = e.daddr)
    ∧ (d.smode = 0b10#2 → d.saddr.extractLsb' 0 16 = e.saddr.extractLsb' 0 16)
    ∧ (d.smode = 0b11#2 → d.saddr = e.saddr)
    ∧ (d.dmode ≠ 0b00#2 → d.dpan = e.dpan)
    ∧ (d.smode ≠ 0b00#2 → d.shape = false → d.span = e.span)

/-- The reserved bits read 0 (10_state.md R32). -/
abbrev State.reservedClear (s : State) : Prop :=
  s.d.ftsel &&& 0xF8#8 = 0#8 ∧ s.d.flags &&& 0xC7#8 = 0#8 ∧ s.d.addrcfg &&& 0x32#8 = 0#8

/-- STATUS is one of the five bytes a command leaves (42_host_bus.md R174), RESULT is 0 unless RVALID is 1
(10_state.md R27), OVERSIZE comes from SER only and BADCMD from an illegal byte (60_exceptions.md R200). -/
abbrev State.resultsCoherent (s : State) : Prop :=
  s.res.status ∈ [0x10#8, 0x00#8, 0x01#8, 0x02#8, 0x03#8]
    ∧ (s.res.rvalid = false → s.res.result = 0#64)
    ∧ (s.res.status = 0x01#8 → s.res.cmd = 0x20#8 ∧ s.res.outlen = 0#8)
    ∧ (s.res.status = 0x03#8 → legalCommand s.res.cmd = false)

/-- OUTLEN is 0 or in 3 to 125 (10_state.md R28), and every readable OUTBUF byte has been stored (R31). -/
abbrev State.outbufReadable (s : State) : Prop :=
  (s.res.outlen = 0#8 ∨ (3 ≤ s.res.outlen.toNat ∧ s.res.outlen.toNat ≤ 125))
    ∧ ∀ i < s.res.outlen.toNat, (s.outbuf.get? i).isSome = true

/-- Both RAMs are in canonical form and within their sizes (10_state.md R29, R31). -/
abbrev State.memoriesWf (s : State) : Prop :=
  Memory.wf s.payload ∧ Memory.within s.payload Config.payloadCap
    ∧ Memory.wf s.outbuf ∧ Memory.within s.outbuf Config.mpduMax

/-- The invariant every step keeps, and every fault leaves. -/
abbrev State.Inv (s : State) : Prop :=
  s.reservedClear ∧ s.resultsCoherent ∧ s.outbufReadable ∧ s.memoriesWf

end Sys2Proof.Machine
end

