-- ==== Sys2Proof/Certificates/Slice0/Obligations.lean ====
section
/-! DEFINITION. The statements about the model, each from the rule or section of spec/ its docstring names. -/

open Sys2Proof Sys2Proof.Machine

/-! ## Encoding (30_encoding.md) -/

/-- Every well-formed transaction is what its own word decodes to (R60, R61, R63, R82). -/
def Obligations.DecodeInvertsEncode : Prop :=
  ∀ i : Instr, i.wellFormed = true → decode (encode i) = i

/-- Every bus word is the word of the transaction it decodes to; a read word has ignored DATA bits, which the
encoder writes as 0 (R60 "0 by convention"). -/
def Obligations.EncodeInvertsDecode : Prop :=
  ∀ w : BusWord, (w.getLsbD 17 = true ∨ w.extractLsb' 0 8 = 0#8) → encode (decode w) = w

/-- The decoding order of R61, and a decoder built from opcode_table.json takes the same row. -/
def Obligations.DecoderPrecedence : Prop :=
  ∀ w : BusWord,
    (w.getLsbD 17 = false → decode w = .rd (w.extractLsb' 8 9))
    ∧ (w.getLsbD 17 = true → w.extractLsb' 8 9 = 0#9 → legalCommand (w.extractLsb' 0 8) = true →
        commandByte (decode w) = some (w.extractLsb' 0 8))
    ∧ (w.getLsbD 17 = true → w.extractLsb' 8 9 = 0#9 → legalCommand (w.extractLsb' 0 8) = false →
        decode w = .cmdx (w.extractLsb' 0 8))
    ∧ (w.getLsbD 17 = true → w.extractLsb' 8 9 ≠ 0#9 →
        decode w = .wr (w.extractLsb' 8 9) (w.extractLsb' 0 8))
    ∧ (bestRow w opcodeRows).map OpcodeRow.mnemonic = some (decode w).mnemonic

/-- How a program line encodes, with the three words R82 gives. -/
def Obligations.ProgramLinesEncode : Prop :=
  (∀ off : Offset, encode (.rd off) = off.setWidth 18 <<< 8)
    ∧ (∀ (off : Offset) (d : Byte), encode (.wr off d) = (1#18 <<< 17) ||| (off.setWidth 18 <<< 8) ||| d.setWidth 18)
    ∧ encode (.wr 0x006#9 0x89#8) = 0x20689#18 ∧ encode .ser = 0x20020#18 ∧ encode (.rd 0x028#9) = 0x02800#18

/-- Words of 95_test_vectors.md section 3 and of R61's boundaries decode to what they stand for. -/
def Obligations.WorkedWordsDecode : Prop :=
  decode 0x00100#18 = .rd 0x001#9 ∧ decode 0x18A00#18 = .rd 0x18A#9
    ∧ decode 0x20201#18 = .wr 0x002#9 0x01#8 ∧ decode 0x300DE#18 = .wr 0x100#9 0xDE#8
    ∧ decode 0x20000#18 = .cmdx 0x00#8 ∧ decode 0x200FF#18 = .cmdx 0xFF#8
    ∧ decode 0x20010#18 = .qwpan ∧ decode 0x20015#18 = .qspan ∧ decode 0x2001A#18 = .qmlen
    ∧ decode 0x20020#18 = .ser

/-! ## The step and the reset (00_scope.md R11, 70_reset_and_hazards.md) -/

/-- When the host's next bus word decodes to a well-formed transaction, the step is that transaction executed
on the state from which the word is taken; every bus word decodes to one (R60). With nothing from the outside
the block does nothing; that such a step leaves the state as it is, is the model's choice (DESIGN CHOICE,
assumption 1). -/
def Obligations.StepRunsTheDecodedTransaction : Prop :=
  (∀ (s : State) (w : BusWord) (rest : List HostEvent), s.host = .bus w :: rest →
      (decode w).wellFormed = true ∧ step s = exec (decode w) { s with host := rest })
    ∧ ∀ s : State, s.host = [] → step s = .next s

/-- What a reset leaves (R230): every register at its reset value, every written mark false, the fault record
kept; a PAYLOAD byte then reads as a draw, and no OUTBUF byte can be read. That a reset leaves the list of bytes
the host has received, the draw counter and the rest of the host's list is the model's choice (DESIGN CHOICE,
assumptions 2, 6 and 1); the fault that a read of OUTBUF then ends in carries the state it leaves (assumption 3,
DEDUCED). -/
def Obligations.ResetEventRestoresTheRegisters : Prop :=
  ∀ (s : State) (rest : List HostEvent), s.host = .rst :: rest →
    ∃ t, step s = .next t
      ∧ t.res.cmd = 0x00#8 ∧ t.res.status = 0x00#8 ∧ t.res.result = 0#64 ∧ t.res.outlen = 0x00#8
      ∧ t.d.ftsel = 0x00#8 ∧ t.d.ftraw = 0x00#8 ∧ t.d.flags = 0x00#8 ∧ t.d.seq = 0x00#8
      ∧ t.d.addrcfg = 0x00#8 ∧ t.d.plen = 0x00#8
      ∧ t.d.daddr = 0#64 ∧ t.d.dpan = 0#16 ∧ t.d.span = 0#16 ∧ t.d.saddr = 0#64
      ∧ (∀ i < 122, t.pw i = false)
      ∧ t.faults = s.faults
      ∧ t.host = rest ∧ t.hostReads = s.hostReads ∧ t.draws = s.draws
      ∧ (∀ i < 122, exec (.rd (BitVec.ofNat 9 (0x100 + i))) t
          = .next { t with hostReads := Config.draw t.draws :: t.hostReads, draws := t.draws + 1 })
      ∧ (∀ i < 127, exec (.rd (BitVec.ofNat 9 (0x180 + i))) t
          = .fault (.outIndex { t with faults := { t.faults with outIndex := true } }))

/-- The register map's reset column at State.reset (10_state.md section 2), and every written mark false. -/
def Obligations.ResetStateValues : Prop :=
  let s := State.reset
  s.res.cmd = 0x00#8 ∧ s.res.status = 0x00#8 ∧ s.d.ftsel = 0x00#8 ∧ s.d.ftraw = 0x00#8 ∧ s.d.flags = 0x00#8
    ∧ s.d.seq = 0x00#8 ∧ s.d.addrcfg = 0x00#8 ∧ s.d.plen = 0x00#8 ∧ s.d.daddr = 0#64 ∧ s.d.dpan = 0#16
    ∧ s.d.span = 0#16 ∧ s.d.saddr = 0#64 ∧ s.res.result = 0#64 ∧ s.res.outlen = 0x00#8
    ∧ ∀ i, s.pw i = false

/-- The state right after reset read as the data model, and SER on it (70_reset_and_hazards.md R231, a rule the
spec marks as derived by itself). -/
def Obligations.SerRightAfterReset : Prop :=
  desc State.reset.d = some
      { frameType := .beacon, securityEnabled := false, framePending := false, acknowledgmentRequest := false,
        sequenceNumber := 0x00#8, addresses := .fullShape none none, payloadLength := 0 }
    ∧ State.reset.res = { cmd := 0x00#8, status := 0x00#8, result := 0#64, outlen := 0x00#8 }
    ∧ exec .ser State.reset = .next { State.reset with
        res := { cmd := 0x20#8, status := 0x10#8, result := 5#64, outlen := 3#8 }
        outbuf := [(0, 0x00#8), (1, 0x00#8), (2, 0x00#8)] }

/-- The bits at which the descriptor fields sit (10_state.md R17, R19, R21). -/
def Obligations.DescriptorFieldBits : Prop :=
  ∀ d : DescRegs,
    (∀ j < 3, d.kind.getLsbD j = d.ftsel.getLsbD j)
    ∧ d.sec = d.flags.getLsbD 3 ∧ d.pend = d.flags.getLsbD 4 ∧ d.ar = d.flags.getLsbD 5
    ∧ d.shape = d.addrcfg.getLsbD 0
    ∧ d.dmode.getLsbD 0 = d.addrcfg.getLsbD 2 ∧ d.dmode.getLsbD 1 = d.addrcfg.getLsbD 3
    ∧ d.smode.getLsbD 0 = d.addrcfg.getLsbD 6 ∧ d.smode.getLsbD 1 = d.addrcfg.getLsbD 7

/-! ## RD (42_host_bus.md R170) -/

/-- RD of each one-byte register returns it and changes nothing else (R170, 20_memory.md R44). The list of bytes
the host has received is the model's (assumption 2, DESIGN CHOICE). -/
def Obligations.ReadOneByteRegisters : Prop :=
  ∀ s : State,
    exec (.rd 0x000#9) s = .next { s with hostReads := s.res.cmd :: s.hostReads }
    ∧ exec (.rd 0x001#9) s = .next { s with hostReads := s.res.status :: s.hostReads }
    ∧ exec (.rd 0x002#9) s = .next { s with hostReads := s.d.ftsel :: s.hostReads }
    ∧ exec (.rd 0x003#9) s = .next { s with hostReads := s.d.ftraw :: s.hostReads }
    ∧ exec (.rd 0x004#9) s = .next { s with hostReads := s.d.flags :: s.hostReads }
    ∧ exec (.rd 0x005#9) s = .next { s with hostReads := s.d.seq :: s.hostReads }
    ∧ exec (.rd 0x006#9) s = .next { s with hostReads := s.d.addrcfg :: s.hostReads }
    ∧ exec (.rd 0x007#9) s = .next { s with hostReads := s.d.plen :: s.hostReads }
    ∧ exec (.rd 0x028#9) s = .next { s with hostReads := s.res.outlen :: s.hostReads }

/-- Byte k of a multi-byte register holds bits [8k+7:8k] and sits at the base offset + k (20_memory.md R40): a
read of it returns those bits and changes nothing else. The list of bytes the host has received is the model's
(assumption 2, DESIGN CHOICE). -/
def Obligations.ReadMultiByteRegisters : Prop :=
  ∀ (s : State) (k : Nat),
    (k < 8 → exec (.rd (BitVec.ofNat 9 (0x008 + k))) s
      = .next { s with hostReads := s.d.daddr.extractLsb' (8 * k) 8 :: s.hostReads })
    ∧ (k < 2 → exec (.rd (BitVec.ofNat 9 (0x010 + k))) s
      = .next { s with hostReads := s.d.dpan.extractLsb' (8 * k) 8 :: s.hostReads })
    ∧ (k < 2 → exec (.rd (BitVec.ofNat 9 (0x012 + k))) s
      = .next { s with hostReads := s.d.span.extractLsb' (8 * k) 8 :: s.hostReads })
    ∧ (k < 8 → exec (.rd (BitVec.ofNat 9 (0x018 + k))) s
      = .next { s with hostReads := s.d.saddr.extractLsb' (8 * k) 8 :: s.hostReads })
    ∧ (k < 8 → exec (.rd (BitVec.ofNat 9 (0x020 + k))) s
      = .next { s with hostReads := s.res.result.extractLsb' (8 * k) 8 :: s.hostReads })

/-- RD of `PAYLOAD[i]` returns the byte written, or a fresh draw when nothing has been written since reset; no
hardware state changes (10_state.md R29, R30). The list of bytes the host has received and the draw counter are
the model's (assumptions 2 and 6, DESIGN CHOICE). -/
def Obligations.ReadPayloadByteOrDraw : Prop :=
  ∀ (s : State) (i : Nat), i < 122 →
    (∀ b, s.payload.get? i = some b →
      exec (.rd (BitVec.ofNat 9 (0x100 + i))) s = .next { s with hostReads := b :: s.hostReads })
    ∧ (s.pw i = false →
      exec (.rd (BitVec.ofNat 9 (0x100 + i))) s
        = .next { s with hostReads := Config.draw s.draws :: s.hostReads, draws := s.draws + 1 })

/-- RD of `OUTBUF[i]`: the stored byte below OUTLEN, Fault(OUT_INDEX) at or beyond it (10_state.md R31,
60_exceptions.md R205). That a byte below OUTLEN is stored is part of the invariant. The list of bytes the host
has received is the model's (assumption 2, DESIGN CHOICE). The state a fault leaves stands in its reason
(assumption 3, DEDUCED). -/
def Obligations.ReadOutbufByteOrFault : Prop :=
  ∀ (s : State) (i : Nat), i < 127 →
    (∀ b, i < s.res.outlen.toNat → s.outbuf.get? i = some b →
      exec (.rd (BitVec.ofNat 9 (0x180 + i))) s = .next { s with hostReads := b :: s.hostReads })
    ∧ (s.res.outlen.toNat ≤ i →
      exec (.rd (BitVec.ofNat 9 (0x180 + i))) s
        = .fault (.outIndex { s with faults := { s.faults with outIndex := true } }))

/-- RD completes at every mapped offset that is not an OUTBUF byte at or beyond OUTLEN, returns one byte and
changes no hardware state (R170). The list of bytes the host has received and the draw counter are the model's
(assumptions 2 and 6, DESIGN CHOICE). -/
def Obligations.ReadChangesNoHardwareState : Prop :=
  ∀ (s : State) (off : Offset), unmappedOffset off.toNat = false →
    (0x180 ≤ off.toNat → off.toNat - 0x180 < s.res.outlen.toNat) →
    ∃ b n, exec (.rd off) s = .next { s with hostReads := b :: s.hostReads, draws := n }
      ∧ (n = s.draws ∨ (n = s.draws + 1 ∧ b = Config.draw s.draws))

/-- Reads are idempotent: a read that took no draw returns the same byte again (20_memory.md R45). The list of
bytes the host has received and the draw counter are the model's (assumptions 2 and 6, DESIGN CHOICE). -/
def Obligations.ReadsAreIdempotent : Prop :=
  ∀ (s t : State) (off : Offset), exec (.rd off) s = .next t → t.draws = s.draws →
    ∃ b, t.hostReads = b :: s.hostReads ∧ exec (.rd off) t = .next { t with hostReads := b :: t.hostReads }

/-! ## WR (42_host_bus.md R171), and what both transactions may not do -/

/-- A read or write of an unmapped offset raises Fault(UNMAPPED), a write of STATUS, RESULT, OUTLEN or OUTBUF
raises Fault(RO_WRITE); each records its kind and changes nothing else (20_memory.md R44, 60_exceptions.md R205).
The state a fault leaves stands in its reason (assumption 3, DEDUCED). -/
def Obligations.ForbiddenOffsetsFault : Prop :=
  ∀ (s : State) (off : Offset) (v : Byte),
    (unmappedOffset off.toNat = true →
      exec (.rd off) s = .fault (.unmapped { s with faults := { s.faults with unmapped := true } })
      ∧ exec (.wr off v) s = .fault (.unmapped { s with faults := { s.faults with unmapped := true } }))
    ∧ (readOnlyOffset off.toNat = true →
      exec (.wr off v) s = .fault (.roWrite { s with faults := { s.faults with roWrite := true } }))

/-- WR of each one-byte register stores the byte with the reserved bits at 0 and changes nothing else
(10_state.md R32). -/
def Obligations.WriteOneByteRegisters : Prop :=
  ∀ (s : State) (v : Byte),
    exec (.wr 0x002#9 v) s = .next { s with d := { s.d with ftsel := v &&& ~~~0xF8#8 } }
    ∧ exec (.wr 0x003#9 v) s = .next { s with d := { s.d with ftraw := v } }
    ∧ exec (.wr 0x004#9 v) s = .next { s with d := { s.d with flags := v &&& ~~~0xC7#8 } }
    ∧ exec (.wr 0x005#9 v) s = .next { s with d := { s.d with seq := v } }
    ∧ exec (.wr 0x006#9 v) s = .next { s with d := { s.d with addrcfg := v &&& ~~~0x32#8 } }
    ∧ exec (.wr 0x007#9 v) s = .next { s with d := { s.d with plen := v } }

/-- WR of byte k of a multi-byte register replaces bits [8k+7:8k], keeps its other bytes, and changes nothing
else (20_memory.md R40, R43). -/
def Obligations.WriteMultiByteRegisters : Prop :=
  ∀ (s : State) (v : Byte) (k : Nat),
    (k < 8 → ∃ x : BitVec 64,
      exec (.wr (BitVec.ofNat 9 (0x008 + k)) v) s = .next { s with d := { s.d with daddr := x } }
      ∧ ∀ j < 8, x.extractLsb' (8 * j) 8 = if j = k then v else s.d.daddr.extractLsb' (8 * j) 8)
    ∧ (k < 2 → ∃ x : BitVec 16,
      exec (.wr (BitVec.ofNat 9 (0x010 + k)) v) s = .next { s with d := { s.d with dpan := x } }
      ∧ ∀ j < 2, x.extractLsb' (8 * j) 8 = if j = k then v else s.d.dpan.extractLsb' (8 * j) 8)
    ∧ (k < 2 → ∃ x : BitVec 16,
      exec (.wr (BitVec.ofNat 9 (0x012 + k)) v) s = .next { s with d := { s.d with span := x } }
      ∧ ∀ j < 2, x.extractLsb' (8 * j) 8 = if j = k then v else s.d.span.extractLsb' (8 * j) 8)
    ∧ (k < 8 → ∃ x : BitVec 64,
      exec (.wr (BitVec.ofNat 9 (0x018 + k)) v) s = .next { s with d := { s.d with saddr := x } }
      ∧ ∀ j < 8, x.extractLsb' (8 * j) 8 = if j = k then v else s.d.saddr.extractLsb' (8 * j) 8)

/-- WR of `PAYLOAD[i]` stores the byte, sets `pw[i]`, and changes no other byte, mark or register
(10_state.md R29, R30). -/
def Obligations.WritePayloadByte : Prop :=
  ∀ (s : State) (v : Byte) (i : Nat), i < 122 →
    ∃ t, exec (.wr (BitVec.ofNat 9 (0x100 + i)) v) s = .next t
      ∧ t = { s with payload := t.payload }
      ∧ t.pw i = true
      ∧ ∀ j, t.payload.get? j = if j = i then some v else s.payload.get? j

/-- The frame of WR: it changes no result register, no OUTBUF byte and nothing but the one byte at its offset
(R171, R172); it completes at every writable offset. -/
def Obligations.WriteChangesOneByte : Prop :=
  ∀ (s : State) (off : Offset) (v : Byte), off ≠ 0#9 → unmappedOffset off.toNat = false →
    readOnlyOffset off.toNat = false →
    ∃ t, exec (.wr off v) s = .next t
      ∧ t = { s with d := t.d, payload := t.payload }
      ∧ ∀ o : Offset, o ≠ off → t.stored (locate o) = s.stored (locate o)

/-- A read of an offset returns the value the most recent write stored there (20_memory.md R47): the byte written,
its reserved bits 0. The list of bytes the host has received is the model's (assumption 2, DESIGN CHOICE). -/
def Obligations.ReadReturnsTheByteWritten : Prop :=
  ∀ (s t : State) (off : Offset) (v : Byte), off ≠ 0#9 → exec (.wr off v) s = .next t →
    exec (.rd off) t = .next { t with hostReads := (v &&& ~~~reservedMask (locate off)) :: t.hostReads }

/-! ## Command dispatch and errors (42_host_bus.md R173 to R176, 60_exceptions.md) -/

/-- The illegal command bytes (30_encoding.md R64): the groups listed, 244 of 256; such a byte is stored in CMD
and reports BADCMD, and nothing else changes (R175). -/
def Obligations.IllegalCommandBytesReportBadcmd : Prop :=
  ((List.range 256).countP fun n => !legalCommand (BitVec.ofNat 8 n)) = 244
    ∧ ∀ (s : State) (c : Byte),
      (c.toNat ≤ 0x0F ∨ (0x1B ≤ c.toNat ∧ c.toNat ≤ 0x1F) ∨ (0x21 ≤ c.toNat ∧ c.toNat ≤ 0x2F)
        ∨ 0x30 ≤ c.toNat) →
      decode (busWrite 0x000#9 c) = .cmdx c
      ∧ exec (.cmdx c) s = .next { s with res := { s.res with cmd := c, status := 0x03#8, result := 0#64 } }

/-- When a descriptor is invalid, and what each of the twelve commands does on one (R176): CMD, STATUS = 0x02
and RESULT = 0, for SER also OUTLEN = 0, and nothing else. The list of the first clause is one the spec marks as
its own inference (R176 "[derived: from 30_encoding.md rules R70 to R72]"). -/
def Obligations.InvalidDescriptorReportsBaddesc : Prop :=
  (∀ d : DescRegs, desc d = none ↔
      (d.kind = 5#3 ∨ d.kind = 6#3 ∨ d.kind = 7#3 ∨ d.dmode = 0b01#2 ∨ d.smode = 0b01#2
        ∨ (d.shape = true ∧ (d.dmode = 0b00#2 ∨ d.smode = 0b00#2))))
    ∧ (∀ (s : State) (i : Instr) (c : Byte), commandByte i = some c → i ≠ .ser → desc s.d = none →
      exec i s = .next { s with res := { s.res with cmd := c, status := 0x02#8, result := 0#64 } })
    ∧ (∀ s : State, desc s.d = none →
      exec .ser s = .next { s with
        res := { cmd := 0x20#8, status := 0x02#8, result := 0#64, outlen := 0x00#8 } })
    ∧ ∀ s : State, s.d.addrcfg = 0x81#8 → desc s.d = none

/-- Which error a command reports (60_exceptions.md R202): BADCMD whatever the descriptor, then BADDESC whatever
the length, then OVERSIZE (SER only), and none of them otherwise. -/
def Obligations.ErrorPriority : Prop :=
  ∀ (s : State) (c : Byte), ∃ t, exec (decodeCommand c) s = .next t
    ∧ t.res.err =
      if legalCommand c = false then 3#3
      else match desc s.d with
        | none => 2#3
        | some fd => if c = 0x20#8 ∧ 127 < mpduLength fd then 1#3 else 0#3

/-- After any command STATUS is one of the five completions' bytes, RVALID = 0 goes with RESULT = 0, and no
command leaves an earlier outcome behind (R174): what STATUS and RESULT held before makes no difference, given that
both runs take the same draws (assumption 6, DESIGN CHOICE). -/
def Obligations.EveryCommandOverwritesTheOutcome : Prop :=
  ∀ (s : State) (c : Byte), ∃ t, exec (decodeCommand c) s = .next t
    ∧ t.res.cmd = c
    ∧ t.res.status ∈ [0x10#8, 0x00#8, 0x01#8, 0x02#8, 0x03#8]
    ∧ (t.res.rvalid = false → t.res.result = 0#64)
    ∧ ∀ (x : Byte) (r : BitVec 64),
        ∃ u, exec (decodeCommand c) { s with res := { s.res with status := x, result := r } } = .next u
          ∧ u = t

/-- The frame of the commands (R172, R173): every command completes and writes no descriptor register, no PAYLOAD
byte and no mark; one other than SER writes neither OUTLEN nor OUTBUF and takes no draw. The draw counter is the
model's (assumption 6, DESIGN CHOICE). -/
def Obligations.CommandsWriteOnlyTheirResults : Prop :=
  ∀ (s : State) (i : Instr) (c : Byte), commandByte i = some c →
    ∃ t, exec i s = .next t
      ∧ t = { s with res := t.res, outbuf := t.outbuf, draws := t.draws }
      ∧ t.res.cmd = c
      ∧ (i ≠ .ser → t.outbuf = s.outbuf ∧ t.draws = s.draws ∧ t.res.outlen = s.res.outlen)

/-! ## The address queries (40_address_model.md R120 to R126) -/

/-- QWPAN (R120): RESULT is the shape, 1 for Local; BADDESC on an invalid descriptor. -/
def Obligations.QwpanReportsTheShape : Prop :=
  decode 0x20010#18 = .qwpan ∧ ∀ s : State,
    (s.d.valid = true → exec .qwpan s = .next (s.afterCommand 0x10#8 0x10#8 (if s.d.shape then 1#64 else 0#64)))
    ∧ (s.d.valid = false → exec .qwpan s = .next (s.afterCommand 0x10#8 0x02#8 0#64))

/-- QDMODE (R121): RESULT is ADDRCFG.DMODE, never 0b00 for a valid Local descriptor. That destination_mode is
ADDRCFG.DMODE is the spec's own inference (R121 "[derived: from rule R110 and 30_encoding.md rule R72]"). -/
def Obligations.QdmodeReportsTheDestinationMode : Prop :=
  decode 0x20011#18 = .qdmode ∧ ∀ s : State,
    (s.d.valid = true → exec .qdmode s = .next (s.afterCommand 0x11#8 0x10#8 (s.d.dmode.setWidth 64))
      ∧ (s.d.shape = true → s.d.dmode ≠ 0b00#2))
    ∧ (s.d.valid = false → exec .qdmode s = .next (s.afterCommand 0x11#8 0x02#8 0#64))

/-- QSMODE (R122): RESULT is ADDRCFG.SMODE. That source_mode is ADDRCFG.SMODE is the spec's own inference (R122
"[derived: from rule R111 and 30_encoding.md rule R72]"). -/
def Obligations.QsmodeReportsTheSourceMode : Prop :=
  decode 0x20012#18 = .qsmode ∧ ∀ s : State,
    (s.d.valid = true → exec .qsmode s = .next (s.afterCommand 0x12#8 0x10#8 (s.d.smode.setWidth 64)))
    ∧ (s.d.valid = false → exec .qsmode s = .next (s.afterCommand 0x12#8 0x02#8 0#64))

/-- QDPAN (R123): RESULT is DPAN with a destination present, None without one. -/
def Obligations.QdpanReportsTheDestinationPan : Prop :=
  decode 0x20013#18 = .qdpan ∧ ∀ s : State,
    (s.d.valid = true → exec .qdpan s = .next (
      if s.d.dmode = 0b00#2 then s.afterCommand 0x13#8 0x00#8 0#64
      else s.afterCommand 0x13#8 0x10#8 (s.d.dpan.setWidth 64)))
    ∧ (s.d.valid = false → exec .qdpan s = .next (s.afterCommand 0x13#8 0x02#8 0#64))

/-- QDADDR (R124): RESULT is DADDR[15:0] for a Short destination, DADDR for a Long one, None for none. -/
def Obligations.QdaddrReportsTheDestinationAddress : Prop :=
  decode 0x20014#18 = .qdaddr ∧ ∀ s : State,
    (s.d.valid = true → exec .qdaddr s = .next (
      if s.d.dmode = 0b00#2 then s.afterCommand 0x14#8 0x00#8 0#64
      else if s.d.dmode = 0b10#2 then s.afterCommand 0x14#8 0x10#8 ((s.d.daddr.extractLsb' 0 16).setWidth 64)
      else s.afterCommand 0x14#8 0x10#8 s.d.daddr))
    ∧ (s.d.valid = false → exec .qdaddr s = .next (s.afterCommand 0x14#8 0x02#8 0#64))

/-- QSPAN (R125): RESULT is SPAN in the Full shape with a source present, None otherwise. -/
def Obligations.QspanReportsTheSourcePan : Prop :=
  decode 0x20015#18 = .qspan ∧ ∀ s : State,
    (s.d.valid = true → exec .qspan s = .next (
      if s.d.shape = true ∨ s.d.smode = 0b00#2 then s.afterCommand 0x15#8 0x00#8 0#64
      else s.afterCommand 0x15#8 0x10#8 (s.d.span.setWidth 64)))
    ∧ (s.d.valid = false → exec .qspan s = .next (s.afterCommand 0x15#8 0x02#8 0#64))

/-- QSADDR (R126): RESULT is SADDR[15:0] for a Short source, SADDR for a Long one, None for none. -/
def Obligations.QsaddrReportsTheSourceAddress : Prop :=
  decode 0x20016#18 = .qsaddr ∧ ∀ s : State,
    (s.d.valid = true → exec .qsaddr s = .next (
      if s.d.smode = 0b00#2 then s.afterCommand 0x16#8 0x00#8 0#64
      else if s.d.smode = 0b10#2 then s.afterCommand 0x16#8 0x10#8 ((s.d.saddr.extractLsb' 0 16).setWidth 64)
      else s.afterCommand 0x16#8 0x10#8 s.d.saddr))
    ∧ (s.d.valid = false → exec .qsaddr s = .next (s.afterCommand 0x16#8 0x02#8 0#64))

/-! ## The codec commands (41_frame_codec.md) -/

/-- QFTYPE (R155): RESULT is FTRAW[2:0] for KIND = 4 and KIND itself below it. That the codes of KIND 0 to 3 are
0 to 3 is the spec's decision D6, "from general knowledge, not in source" (assumption 12, DESIGN CHOICE). -/
def Obligations.QftypeReportsTheTypeCode : Prop :=
  decode 0x20017#18 = .qftype ∧ ∀ s : State,
    (s.d.valid = true → exec .qftype s = .next (s.afterCommand 0x17#8 0x10#8
      (if s.d.kind = 4#3 then (s.d.ftraw.extractLsb' 0 3).setWidth 64 else s.d.kind.setWidth 64)))
    ∧ (s.d.valid = false → exec .qftype s = .next (s.afterCommand 0x17#8 0x02#8 0#64))

/-- QFCF (R156): RESULT is the frame control field, from bit 15 down SMODE, 00, DMODE, 00, 0, SHAPE, AR, PEND,
SEC and the type code, whatever the length. That the type code of KIND 0 to 3 is KIND is the spec's decision D6
(assumption 12, DESIGN CHOICE); that the mode bits are ADDRCFG's is the spec's own inference (R121, R122
"[derived: ...]"). -/
def Obligations.QfcfReportsTheFrameControl : Prop :=
  decode 0x20018#18 = .qfcf ∧ ∀ s : State,
    (s.d.valid = true → exec .qfcf s = .next (s.afterCommand 0x18#8 0x10#8
      ((s.d.smode ++ 0#2 ++ s.d.dmode ++ 0#2 ++ 0#1 ++ BitVec.ofBool s.d.shape ++ BitVec.ofBool s.d.ar
        ++ BitVec.ofBool s.d.pend ++ BitVec.ofBool s.d.sec
        ++ (if s.d.kind = 4#3 then s.d.ftraw.extractLsb' 0 3 else s.d.kind)).setWidth 64)))
    ∧ (s.d.valid = false → exec .qfcf s = .next (s.afterCommand 0x18#8 0x02#8 0#64))

/-- QABLEN (R157): RESULT is the length of the address block, which is the entry of R142's table for the shape and
modes of ADDRCFG. The spec marks that table as its own inference ("[derived: from rule R140, rule R141 and
40_address_model.md rules R106 to R109]"). -/
def Obligations.QablenReportsTheBlockLength : Prop :=
  decode 0x20019#18 = .qablen ∧ ∀ s : State,
    (s.d.valid = true → ∃ fd n, desc s.d = some fd ∧ n = (addressBlock fd.addresses).length
      ∧ blockLengthTable.lookup (s.d.addrcfg &&& 0xCD#8) = some n
      ∧ exec .qablen s = .next (s.afterCommand 0x19#8 0x10#8 (BitVec.ofNat 64 n)))
    ∧ (s.d.valid = false → exec .qablen s = .next (s.afterCommand 0x19#8 0x02#8 0#64))

/-- QMLEN (R158): RESULT is mpdu_length (R146), 5 + the address block length + PLEN, exactly, above 127 too. The
address block length is the entry of R142's table, which the spec marks as its own inference ("[derived: from rule
R140, rule R141 and 40_address_model.md rules R106 to R109]"). -/
def Obligations.QmlenReportsTheExactLength : Prop :=
  decode 0x2001A#18 = .qmlen ∧ ∀ s : State,
    (s.d.valid = true → ∃ fd n, desc s.d = some fd ∧ n = (addressBlock fd.addresses).length
      ∧ blockLengthTable.lookup (s.d.addrcfg &&& 0xCD#8) = some n
      ∧ mpduLength fd = 5 + n + s.d.plen.toNat ∧ mpduLength fd ≤ 280
      ∧ exec .qmlen s = .next (s.afterCommand 0x1A#8 0x10#8 (BitVec.ofNat 64 (5 + n + s.d.plen.toNat))))
    ∧ (s.d.valid = false → exec .qmlen s = .next (s.afterCommand 0x1A#8 0x02#8 0#64))

/-- The frame control bytes bit by bit (R136, R137), with the bits of R138 at 0. -/
def Obligations.FrameControlBits : Prop :=
  ∀ fd : FrameDesc,
    (fcf0 fd).extractLsb' 0 3 = ftCode fd.frameType
    ∧ (fcf0 fd).getLsbD 3 = fd.securityEnabled
    ∧ (fcf0 fd).getLsbD 4 = fd.framePending
    ∧ (fcf0 fd).getLsbD 5 = fd.acknowledgmentRequest
    ∧ (fcf0 fd).getLsbD 6 = isWithinPan fd.addresses
    ∧ (fcf0 fd).getLsbD 7 = false
    ∧ (fcf1 fd).extractLsb' 0 2 = 0#2
    ∧ (fcf1 fd).extractLsb' 2 2 = destinationMode fd.addresses
    ∧ (fcf1 fd).extractLsb' 4 2 = 0#2
    ∧ (fcf1 fd).extractLsb' 6 2 = sourceMode fd.addresses

/-- The 3-bit frame type codes, with the corner cases of R131. The codes 0 to 3 of the named types are no rule of
the source: they are the spec's own decision D6 ("from general knowledge, not in source"). -/
def Obligations.FrameTypeCodes : Prop :=
  ftCode .beacon = 0#3 ∧ ftCode .data = 1#3 ∧ ftCode .acknowledge = 2#3 ∧ ftCode .macCommand = 3#3
    ∧ (∀ v : Byte, ftCode (.other v) = v.extractLsb' 0 3)
    ∧ ftCode (.other 0x01#8) = ftCode .data ∧ ftCode (.other 0x0D#8) = 5#3 ∧ ftCode (.other 0xF8#8) = 0#3

/-- The address block field by field (R140, R141): destination address, destination PAN ID, source address,
source PAN ID, each least-significant byte first, Short 2 bytes and Long 8, absent ones no byte. -/
def Obligations.AddressBlockFieldOrder : Prop :=
  (∀ a : Addresses, addressBlock a =
      addrBytes (destinationAddress a) ++ panBytes (destinationPanId a)
        ++ addrBytes (sourceAddress a) ++ panBytes (sourcePanId a))
    ∧ addrBytes none = []
    ∧ (∀ x : BitVec 16, addrBytes (some (.short x)) = [x.extractLsb' 0 8, x.extractLsb' 8 8])
    ∧ (∀ x : BitVec 64, addrBytes (some (.long x)) =
        [x.extractLsb' 0 8, x.extractLsb' 8 8, x.extractLsb' 16 8, x.extractLsb' 24 8,
          x.extractLsb' 32 8, x.extractLsb' 40 8, x.extractLsb' 48 8, x.extractLsb' 56 8])
    ∧ panBytes none = []
    ∧ (∀ p : BitVec 16, panBytes (some p) = [p.extractLsb' 0 8, p.extractLsb' 8 8])
    ∧ addressBlock (.localShape (.short 0x1234#16) ⟨.short 0x5678#16, 0xABCD#16⟩)
        = [0x78#8, 0x56#8, 0xCD#8, 0xAB#8, 0x34#8, 0x12#8]

/-- The lengths (R146): the sum, its range 5 to 280 over the valid descriptors, both ends reached. -/
def Obligations.MpduLengthIsExact : Prop :=
  (∀ (d : DescRegs) (fd : FrameDesc), desc d = some fd →
      mpduLength fd = 2 + 1 + (addressBlock fd.addresses).length + d.plen.toNat + 2
      ∧ 5 ≤ mpduLength fd ∧ mpduLength fd ≤ 280)
    ∧ (∃ d fd, desc d = some fd ∧ mpduLength fd = 5) ∧ ∃ d fd, desc d = some fd ∧ mpduLength fd = 280

/-- The payload list (30_encoding.md R75): PLEN bytes, byte i the byte written, or a draw taken at no other index
of the list when nothing has been written since reset. The draw counter is the model's (assumption 6, DESIGN
CHOICE). -/
def Obligations.PayloadListIsPayloadOrDraws : Prop :=
  ∀ (s : State) (n : Nat),
    (s.payloadList n).1.length = n
    ∧ (s.payloadList n).2 = s.draws + unwrittenBefore s.payload n
    ∧ ∀ i < n, (s.payloadList n).1[i]? =
        some ((s.payload.get? i).getD (Config.draw (s.draws + unwrittenBefore s.payload i)))

/-- SER (R150, R160). On a valid descriptor whose MPDU fits, OUTBUF holds the header, the address block and the
payload, OUTLEN = L - 2 in 3 to 125, RESULT = L, STATUS = 0x10, and OUTBUF bytes from OUTLEN on and everything
else are as before; where it does not fit, OVERSIZE with OUTLEN = 0; on an invalid descriptor, BADDESC with OUTLEN
= 0. That the bytes number 3 + the address block length + PLEN is R150's invariant, which the spec marks as its
own inference ("[derived: from this rule and rule R142]"). The draw counter is the model's (assumption 6, DESIGN
CHOICE). -/
def Obligations.SerWritesTheMpdu : Prop :=
  decode 0x20020#18 = .ser ∧ ∀ s : State,
    match desc s.d with
    | none => exec .ser s = .next { s with
        res := { cmd := 0x20#8, status := 0x02#8, result := 0#64, outlen := 0x00#8 } }
    | some fd =>
      if 127 < mpduLength fd then exec .ser s = .next { s with
        res := { cmd := 0x20#8, status := 0x01#8, result := 0#64, outlen := 0x00#8 } }
      else ∃ t bytes, exec .ser s = .next t
        ∧ bytes = [fcf0 fd, fcf1 fd, fd.sequenceNumber] ++ addressBlock fd.addresses
            ++ (s.payloadList fd.payloadLength).1
        ∧ bytes.length + 2 = mpduLength fd ∧ 3 ≤ bytes.length ∧ bytes.length ≤ 125
        ∧ bytes.length = 3 + addressBlockLength fd.addresses + fd.payloadLength
        ∧ (∀ i < bytes.length, t.outbuf.get? i = bytes[i]?)
        ∧ (∀ i, bytes.length ≤ i → t.outbuf.get? i = s.outbuf.get? i)
        ∧ t.res = { cmd := 0x20#8, status := 0x10#8, result := BitVec.ofNat 64 (mpduLength fd),
                    outlen := BitVec.ofNat 8 bytes.length }
        ∧ t = { s with res := t.res, outbuf := t.outbuf, draws := (s.payloadList fd.payloadLength).2 }

/-- SER refuses a frame whose MPDU exceeds 127 bytes (R147, R160): OVERSIZE, OUTLEN = 0, OUTBUF unchanged, and
only then. -/
def Obligations.SerRefusesOversizeFrames : Prop :=
  ∀ (s : State) (fd : FrameDesc), desc s.d = some fd →
    (127 < mpduLength fd →
      exec .ser s = .next { s with
        res := { cmd := 0x20#8, status := 0x01#8, result := 0#64, outlen := 0x00#8 } })
    ∧ (mpduLength fd ≤ 127 → ∃ t, exec .ser s = .next t ∧ t.res.status = 0x10#8 ∧ t.res.outlen.toNat ≤ 125)

/-- The largest payload SER accepts is 122 less the address block length (R148); PLEN above 122 is OVERSIZE
whatever the addresses (R149). The spec marks both rules as derived by itself from R146 and R147. -/
def Obligations.PayloadLimits : Prop :=
  ∀ s : State, s.d.valid = true →
    (∃ n t, blockLengthTable.lookup (s.d.addrcfg &&& 0xCD#8) = some n ∧ exec .ser s = .next t
      ∧ (t.res.status = 0x10#8 ↔ s.d.plen.toNat + n ≤ 122))
    ∧ (122 < s.d.plen.toNat →
      exec .ser s = .next { s with
        res := { cmd := 0x20#8, status := 0x01#8, result := 0#64, outlen := 0x00#8 } })

/-- A second SER on an unchanged descriptor and a fully written payload gives the same bytes (R160). The draw
counter is the model's (assumption 6, DESIGN CHOICE). -/
def Obligations.SecondSerGivesTheSameBytes : Prop :=
  ∀ (s t : State), s.payloadReady → exec .ser s = .next t →
    ∃ u, exec .ser t = .next u ∧ u.res = t.res ∧ u.draws = t.draws
      ∧ ∀ i, u.outbuf.get? i = t.outbuf.get? i

/-- The source's section 8 frame (R160's example, 95_test_vectors.md S3 and P1). -/
def Obligations.SourceExampleFrame : Prop :=
  ∃ t, exec .ser ({ State.reset with
      d := { ftsel := 0x01#8, ftraw := 0x00#8, flags := 0x20#8, seq := 0x05#8, addrcfg := 0x89#8, plen := 0x02#8,
             daddr := 0x5678#64, dpan := 0xABCD#16, span := 0#16, saddr := 0x1234#64 }
      payload := [(0, 0xDE#8), (1, 0xAD#8)] } : State) = .next t
    ∧ t.outbuf.map Prod.snd = [0x61#8, 0x88#8, 0x05#8, 0x78#8, 0x56#8, 0xCD#8, 0xAB#8, 0x34#8, 0x12#8, 0xDE#8, 0xAD#8]
    ∧ t.res = { cmd := 0x20#8, status := 0x10#8, result := 13#64, outlen := 11#8 }

/-! ## The data model behind the registers (30_encoding.md R76) -/

/-- Every frame of the data model with at most 122 payload bytes is the frame of some register state, and two
register states give the same frame exactly when they differ only in what R76 lists (a rule the spec
marks as derived by itself). -/
def Obligations.RegistersCoverTheDataModel : Prop :=
  (∀ (s : State) (f : Frame), f.payload.length ≤ 122 →
      desc (s.withFrame f).d = some f.desc ∧ (s.withFrame f).frame = some f)
    ∧ ∀ s t : State, s.frame ≠ none → t.frame ≠ none →
      (s.frame = t.frame ↔
        (s.d.sameUsed t.d ∧ ∀ i < s.d.plen.toNat, s.payload.get? i = t.payload.get? i))

/-- Commands do not depend on what the descriptor does not use (30_encoding.md R73, 93_implementation_defined.md
U10): on two states that differ only there, they write the same results, given that both
take the same draws (the model's two runs share the draw counter; assumption 6, DESIGN CHOICE). -/
def Obligations.UnusedFieldsHaveNoEffect : Prop :=
  ∀ (s : State) (e : DescRegs) (i : Instr) (c : Byte), commandByte i = some c → s.d.sameUsed e →
    ∃ t u, exec i s = .next t ∧ exec i { s with d := e } = .next u ∧ u = { t with d := e }

/-- A host that describes a frame and issues SER gets exactly the source's serialization of it, or the oversize
refusal (R150, R160): OUTBUF holds serialize(frame), OUTLEN its length, RESULT the MPDU length. The list of bytes
the host has received is the model's (assumption 2, DESIGN CHOICE). -/
def Obligations.SerEmitsTheSourceFrame : Prop :=
  ∀ (s : State) (f : Frame), f.payload.length ≤ 122 →
    ∃ t, exec .ser (s.withFrame f) = .next t ∧
      match serializeFrame f with
      | some (bytes, length) =>
        t.res.status = 0x10#8 ∧ t.res.result.toNat = length ∧ t.res.outlen.toNat = bytes.length
          ∧ bytes.length + 2 = length
          ∧ (∀ i < bytes.length, t.outbuf.get? i = bytes[i]?)
          ∧ ∀ i < bytes.length, ∀ b, bytes[i]? = some b →
              exec (.rd (BitVec.ofNat 9 (0x180 + i))) t = .next { t with hostReads := b :: t.hostReads }
      | none => t.res.status = 0x01#8 ∧ t.res.result = 0#64 ∧ t.res.outlen = 0x00#8 ∧ t.outbuf = s.outbuf

/-! ## The pseudo-instructions (30_encoding.md R81) -/

/-- WR64 and WR16 leave the whole value in the register at their base and nothing else changed. -/
def Obligations.WidePseudoWritesSetTheRegister : Prop :=
  ∀ (s : State) (v : BitVec 64) (x : BitVec 16),
    execAll (Pseudo.wr64 0x008#9 v).expand s = some { s with d := { s.d with daddr := v } }
    ∧ execAll (Pseudo.wr64 0x018#9 v).expand s = some { s with d := { s.d with saddr := v } }
    ∧ execAll (Pseudo.wr16 0x010#9 x).expand s = some { s with d := { s.d with dpan := x } }
    ∧ execAll (Pseudo.wr16 0x012#9 x).expand s = some { s with d := { s.d with span := x } }

/-- RD64 and RD16 read bytes whose value is the register's (for RD16 its low 16 bits). The list of bytes the host
has received is the model's (assumption 2, DESIGN CHOICE). -/
def Obligations.WidePseudoReadsGiveTheValue : Prop :=
  ∀ s : State, ∃ b8 b2 : List Byte,
    execAll (Pseudo.rd64 0x020#9).expand s = some { s with hostReads := b8.reverse ++ s.hostReads }
    ∧ readValue b8 = s.res.result.toNat
    ∧ execAll (Pseudo.rd16 0x010#9).expand s = some { s with hostReads := b2.reverse ++ s.hostReads }
    ∧ readValue b2 = s.d.dpan.toNat

/-! ## Whole-machine rules -/

/-- The block refuses nothing (00_scope.md R12). -/
def Obligations.NoStepRefuses : Prop := ∀ (s : State) (r : Refusal), step s ≠ .refused r

/-- Faults (60_exceptions.md R205): a step faults exactly on a host-contract violation, with its kind; the fault
records the kind and leaves all other state; no step and no reset takes a kind out of the record; and a state with
a kind recorded is never final. When a state with an empty record is final is the model's choice (DESIGN CHOICE,
assumption 13), and no clause rests on it. That a fault takes the transaction from the host's list, and carries
the state it leaves, is the model's (assumptions 1, DESIGN CHOICE, and 3, DEDUCED). -/
def Obligations.FaultsAreRecordedAndNeverCleared : Prop :=
  (∀ (s : State) (f : Fault), step s = .fault f →
      ∃ w rest, s.host = .bus w :: rest ∧ s.violates w f.kind
        ∧ f.state = { s with host := rest, faults := s.faults.add f.kind })
    ∧ (∀ (s : State) (w : BusWord) (rest : List HostEvent) (k : FaultKind), s.host = .bus w :: rest →
        s.violates w k → ∃ f, step s = .fault f ∧ f.kind = k)
    ∧ (∀ s t : State, step s = .next t → t.faults = s.faults)
    ∧ (∀ (s : State) (f : Fault) (k : FaultKind), step s = .fault f →
        (f.state.faults.has k = true ↔ (s.faults.has k = true ∨ k = f.kind)))
    ∧ ∀ (s : State) (k : FaultKind), s.faults.has k = true → s.final = false

/-- SEQ is the host's (10_state.md R20, 70_reset_and_hazards.md R243): only a WR at 0x005 and a reset change
it. -/
def Obligations.OnlyTheHostChangesSeq : Prop :=
  ∀ s t : State, step s = .next t → t.d.seq ≠ s.d.seq →
    (∃ v rest, s.host = .bus (busWrite 0x005#9 v) :: rest ∧ t.d.seq = v)
      ∨ (∃ rest, s.host = .rst :: rest ∧ t.d.seq = 0x00#8)

/-- Only SER (and a reset) changes OUTLEN or OUTBUF, and a SER that changes OUTBUF succeeded (10_state.md R28,
R31). -/
def Obligations.OnlySerChangesTheOutput : Prop :=
  ∀ s t : State, step s = .next t →
    (t.res.outlen ≠ s.res.outlen ∨ t.outbuf ≠ s.outbuf) →
    (∃ rest, s.host = .rst :: rest)
      ∨ ((∃ rest, s.host = .bus 0x20020#18 :: rest) ∧ (t.outbuf ≠ s.outbuf → t.res.status = 0x10#8))

/-- Only a command (and a reset) changes CMD, STATUS or RESULT (10_state.md R15, R16, R27). -/
def Obligations.OnlyCommandsChangeTheResults : Prop :=
  ∀ s t : State, step s = .next t → t.res ≠ s.res →
    (∃ rest, s.host = .rst :: rest) ∨ ∃ c rest, s.host = .bus (busWrite 0x000#9 c) :: rest ∧ t.res.cmd = c

/-- Every step keeps the invariant, and every fault leaves it: reserved bits 0 (10_state.md R32), STATUS and
RESULT coherent (R16, R27, 60_exceptions.md R200), OUTLEN in range and every readable OUTBUF byte stored (R28,
R31), both RAMs in canonical form and within their sizes (R29, R31). -/
def Obligations.EveryStepKeepsTheInvariant : Prop :=
  ∀ s : State, s.Inv →
    (∀ t, step s = .next t → t.Inv) ∧ ∀ f, step s = .fault f → f.state.Inv

/-- The state after reset meets the invariant. -/
def Obligations.ResetMeetsTheInvariant : Prop := State.reset.Inv
end

