-- ==== Sys2Proof/Laws/Bytes.lean ====
section
/-! SUPPORT. The laws of byte order (20_memory.md R40) and of reserved bits (10_state.md R32). -/

namespace Sys2Proof.Machine

/-- Bit `i` of byte `k` is bit `8k + i` of the value. -/
theorem getLsbD_byteOf {w : Nat} (v : BitVec w) (k i : Nat) (hi : i < 8) :
    (byteOf v k).getLsbD i = v.getLsbD (8 * k + i) := by
  simp [byteOf, hi]

/-- The byte just replaced is the new one. -/
theorem byteOf_withByte_self {w : Nat} (v : BitVec w) (k : Nat) (b : Byte) (h : 8 * k + 8 ≤ w) :
    byteOf (withByte v k b) k = b := by
  apply BitVec.eq_of_getLsbD_eq
  intro i hi
  have h1 : 8 * k + i < w := by omega
  have h2 : ¬(8 * k + i < 8 * k) := by omega
  have h3 : 8 * k + i - 8 * k = i := by omega
  have h5 : (255#8).getLsbD i = true := by
    interval_cases i <;> rfl
  rw [getLsbD_byteOf _ _ _ hi]
  simp [withByte, h1, h3, h5]

/-- Every other byte is as it was. -/
theorem byteOf_withByte_of_ne {w : Nat} (v : BitVec w) (k j : Nat) (b : Byte) (h : j ≠ k) :
    byteOf (withByte v k b) j = byteOf v j := by
  apply BitVec.eq_of_getLsbD_eq
  intro i hi
  rw [getLsbD_byteOf _ _ _ hi, getLsbD_byteOf _ _ _ hi]
  by_cases hw : 8 * j + i < w
  · by_cases hlt : 8 * j + i < 8 * k
    · simp [withByte, hw, hlt]
    · have hge : 8 ≤ 8 * j + i - 8 * k := by omega
      have hz : ∀ x : Byte, x.getLsbD (8 * j + i - 8 * k) = false := fun x => BitVec.getLsbD_of_ge x _ hge
      simp only [withByte, BitVec.getLsbD_or, BitVec.getLsbD_and, BitVec.getLsbD_not, BitVec.getLsbD_shiftLeft,
        BitVec.getLsbD_setWidth, hz]
      simp [hw, hlt]
  · simp [BitVec.getLsbD_of_ge _ _ (Nat.le_of_not_lt hw)]

/-- How long a little-endian list is. -/
@[simp] theorem length_le {w : Nat} (v : BitVec w) (n : Nat) : (le v n).length = n := by
  simp [le]

/-- Element `i` of a little-endian list. -/
theorem getElem?_le {w : Nat} (v : BitVec w) (n i : Nat) (h : i < n) : (le v n)[i]? = some (byteOf v i) := by
  simp [le, h]

/-- Every reset value is 0, so a write clears the reserved bits and keeps the others. -/
theorem cleanForWrite_resetByte (m v : Byte) (l : Location) :
    cleanForWrite m (resetByte l) v = v &&& ~~~m := by
  simp [cleanForWrite, resetByte]

end Sys2Proof.Machine
end

