-- ==== Sys2Proof/Laws/Memory.lean ====
section
/-! SUPPORT. The laws of the RAMs: a read after a write, a write elsewhere, the canonical form kept, and the
bounds kept. -/

namespace Sys2Proof.Machine

/-- A read after a write: the byte written, or what the index read before. -/
theorem Memory.get?_set (m : Memory) (a b : Nat) (v : Byte) :
    (Memory.set m a v).get? b = if a = b then some v else m.get? b := by
  induction m with
  | nil => simp [Memory.set, Memory.get?]
  | cons c m ih =>
    obtain ⟨x, y⟩ := c
    simp only [Memory.set]
    split
    · rfl
    · split
      · rename_i heq
        subst heq
        by_cases h3 : a = b <;> simp [Memory.get?, h3]
      · by_cases h3 : x = b
        · have : a ≠ b := by omega
          simp [Memory.get?, h3, this]
        · simp [Memory.get?, h3, ih]

/-- The indices after a write. -/
theorem Memory.mem_set (m : Memory) (a : Nat) (v : Byte) (c : Host.Cell) (h : c ∈ Memory.set m a v) :
    c = (a, v) ∨ c ∈ m := by
  induction m with
  | nil => simpa [Memory.set] using h
  | cons e m ih =>
    obtain ⟨x, y⟩ := e
    simp only [Memory.set] at h
    split at h
    · simpa using h
    · split at h
      · rcases List.mem_cons.1 h with h | h
        · exact .inl h
        · exact .inr (List.mem_cons_of_mem _ h)
      · rcases List.mem_cons.1 h with h | h
        · exact .inr (h ▸ List.mem_cons_self)
        · exact (ih h).imp id (List.mem_cons_of_mem _)

/-- A write keeps the canonical form. -/
theorem Memory.wf_set (m : Memory) (a : Nat) (v : Byte) (h : Memory.wf m) : Memory.wf (Memory.set m a v) := by
  induction m with
  | nil => simp [Memory.set, Memory.wf]
  | cons e m ih =>
    obtain ⟨x, y⟩ := e
    obtain ⟨hx, hm⟩ := List.pairwise_cons.1 h
    simp only [Memory.set]
    split
    · rename_i hlt
      refine List.pairwise_cons.2 ⟨fun c hc => ?_, h⟩
      rcases List.mem_cons.1 hc with rfl | hc
      · exact hlt
      · exact lt_trans hlt (hx c hc)
    · split
      · rename_i heq
        subst heq
        exact List.pairwise_cons.2 ⟨hx, hm⟩
      · refine List.pairwise_cons.2 ⟨fun c hc => ?_, ih hm⟩
        rcases Memory.mem_set m a v c hc with rfl | hc
        · show x < a
          omega
        · exact hx c hc

/-- A write below the size keeps every index below it. -/
theorem Memory.within_set (m : Memory) (a : Nat) (v : Byte) (cap : Nat) (h : Memory.within m cap)
    (ha : a < cap) : Memory.within (Memory.set m a v) cap := by
  intro c hc
  rcases Memory.mem_set m a v c hc with rfl | hc
  · exact ha
  · exact h c hc

/-- A read after a run of writes: the byte of the run, or what the index read before. -/
theorem Memory.get?_setFrom (vs : List Byte) (m : Memory) (a b : Nat) :
    (Memory.setFrom m a vs).get? b = if a ≤ b ∧ b < a + vs.length then vs[b - a]? else m.get? b := by
  induction vs generalizing m a with
  | nil =>
    have : ¬(a ≤ b ∧ b < a + ([] : List Byte).length) := by
      simp
    rw [if_neg this]; rfl
  | cons v vs ih =>
    rw [Memory.setFrom, ih, Memory.get?_set]
    by_cases h0 : a = b
    · subst h0
      simp
    · by_cases h1 : a + 1 ≤ b ∧ b < a + 1 + vs.length
      · have h2 : a ≤ b ∧ b < a + (v :: vs).length := by simp only [List.length_cons]; omega
        have h3 : b - a = (b - (a + 1)) + 1 := by omega
        rw [if_pos h1, if_pos h2, h3, List.getElem?_cons_succ]
      · have h2 : ¬(a ≤ b ∧ b < a + (v :: vs).length) := by simp only [List.length_cons]; omega
        rw [if_neg h1, if_neg h2, if_neg h0]

/-- A run of writes keeps the canonical form. -/
theorem Memory.wf_setFrom (vs : List Byte) (m : Memory) (a : Nat) (h : Memory.wf m) :
    Memory.wf (Memory.setFrom m a vs) := by
  induction vs generalizing m a with
  | nil => exact h
  | cons v vs ih => exact ih _ _ (Memory.wf_set m a v h)

/-- A run of writes below the size keeps every index below it. -/
theorem Memory.within_setFrom (vs : List Byte) (m : Memory) (a cap : Nat) (h : Memory.within m cap)
    (ha : a + vs.length ≤ cap) : Memory.within (Memory.setFrom m a vs) cap := by
  induction vs generalizing m a with
  | nil => exact h
  | cons v vs ih =>
    simp only [List.length_cons] at ha
    exact ih _ _ (Memory.within_set m a v cap h (by omega)) (by omega)

end Sys2Proof.Machine
end

