-- ==== Sys2Proof/Laws/State.lean ====
section
/-! SUPPORT. One lemma for each field of State and each named update: what the update leaves in the field.
Later proofs rewrite with these and unfold no update. -/

namespace Sys2Proof.Machine

/-! ### writeReg -/
@[simp] theorem State.writeReg_d (s : State) (l : Location) (v : Byte) : (s.writeReg l v).d = s.d.put l (cleanForWrite (reservedMask l) (resetByte l) v) := rfl
@[simp] theorem State.writeReg_payload (s : State) (l : Location) (v : Byte) : (s.writeReg l v).payload = s.payload := rfl
@[simp] theorem State.writeReg_res (s : State) (l : Location) (v : Byte) : (s.writeReg l v).res = s.res := rfl
@[simp] theorem State.writeReg_outbuf (s : State) (l : Location) (v : Byte) : (s.writeReg l v).outbuf = s.outbuf := rfl
@[simp] theorem State.writeReg_faults (s : State) (l : Location) (v : Byte) : (s.writeReg l v).faults = s.faults := rfl
@[simp] theorem State.writeReg_host (s : State) (l : Location) (v : Byte) : (s.writeReg l v).host = s.host := rfl
@[simp] theorem State.writeReg_hostReads (s : State) (l : Location) (v : Byte) : (s.writeReg l v).hostReads = s.hostReads := rfl
@[simp] theorem State.writeReg_draws (s : State) (l : Location) (v : Byte) : (s.writeReg l v).draws = s.draws := rfl

/-! ### writePayload -/
@[simp] theorem State.writePayload_d (s : State) (i : Nat) (v : Byte) : (s.writePayload i v).d = s.d := rfl
@[simp] theorem State.writePayload_payload (s : State) (i : Nat) (v : Byte) : (s.writePayload i v).payload = s.payload.set i v := rfl
@[simp] theorem State.writePayload_res (s : State) (i : Nat) (v : Byte) : (s.writePayload i v).res = s.res := rfl
@[simp] theorem State.writePayload_outbuf (s : State) (i : Nat) (v : Byte) : (s.writePayload i v).outbuf = s.outbuf := rfl
@[simp] theorem State.writePayload_faults (s : State) (i : Nat) (v : Byte) : (s.writePayload i v).faults = s.faults := rfl
@[simp] theorem State.writePayload_host (s : State) (i : Nat) (v : Byte) : (s.writePayload i v).host = s.host := rfl
@[simp] theorem State.writePayload_hostReads (s : State) (i : Nat) (v : Byte) : (s.writePayload i v).hostReads = s.hostReads := rfl
@[simp] theorem State.writePayload_draws (s : State) (i : Nat) (v : Byte) : (s.writePayload i v).draws = s.draws := rfl

/-! ### storeCmd -/
@[simp] theorem State.storeCmd_d (s : State) (c : Byte) : (s.storeCmd c).d = s.d := rfl
@[simp] theorem State.storeCmd_payload (s : State) (c : Byte) : (s.storeCmd c).payload = s.payload := rfl
@[simp] theorem State.storeCmd_res (s : State) (c : Byte) : (s.storeCmd c).res = { s.res with cmd := c } := rfl
@[simp] theorem State.storeCmd_outbuf (s : State) (c : Byte) : (s.storeCmd c).outbuf = s.outbuf := rfl
@[simp] theorem State.storeCmd_faults (s : State) (c : Byte) : (s.storeCmd c).faults = s.faults := rfl
@[simp] theorem State.storeCmd_host (s : State) (c : Byte) : (s.storeCmd c).host = s.host := rfl
@[simp] theorem State.storeCmd_hostReads (s : State) (c : Byte) : (s.storeCmd c).hostReads = s.hostReads := rfl
@[simp] theorem State.storeCmd_draws (s : State) (c : Byte) : (s.storeCmd c).draws = s.draws := rfl

/-! ### setOutlen -/
@[simp] theorem State.setOutlen_d (s : State) (n : Byte) : (s.setOutlen n).d = s.d := rfl
@[simp] theorem State.setOutlen_payload (s : State) (n : Byte) : (s.setOutlen n).payload = s.payload := rfl
@[simp] theorem State.setOutlen_res (s : State) (n : Byte) : (s.setOutlen n).res = { s.res with outlen := n } := rfl
@[simp] theorem State.setOutlen_outbuf (s : State) (n : Byte) : (s.setOutlen n).outbuf = s.outbuf := rfl
@[simp] theorem State.setOutlen_faults (s : State) (n : Byte) : (s.setOutlen n).faults = s.faults := rfl
@[simp] theorem State.setOutlen_host (s : State) (n : Byte) : (s.setOutlen n).host = s.host := rfl
@[simp] theorem State.setOutlen_hostReads (s : State) (n : Byte) : (s.setOutlen n).hostReads = s.hostReads := rfl
@[simp] theorem State.setOutlen_draws (s : State) (n : Byte) : (s.setOutlen n).draws = s.draws := rfl

/-! ### report -/
@[simp] theorem State.report_d (s : State) (x : Byte) (r : BitVec 64) : (s.report x r).d = s.d := rfl
@[simp] theorem State.report_payload (s : State) (x : Byte) (r : BitVec 64) : (s.report x r).payload = s.payload := rfl
@[simp] theorem State.report_res (s : State) (x : Byte) (r : BitVec 64) : (s.report x r).res = { s.res with status := x, result := r } := rfl
@[simp] theorem State.report_outbuf (s : State) (x : Byte) (r : BitVec 64) : (s.report x r).outbuf = s.outbuf := rfl
@[simp] theorem State.report_faults (s : State) (x : Byte) (r : BitVec 64) : (s.report x r).faults = s.faults := rfl
@[simp] theorem State.report_host (s : State) (x : Byte) (r : BitVec 64) : (s.report x r).host = s.host := rfl
@[simp] theorem State.report_hostReads (s : State) (x : Byte) (r : BitVec 64) : (s.report x r).hostReads = s.hostReads := rfl
@[simp] theorem State.report_draws (s : State) (x : Byte) (r : BitVec 64) : (s.report x r).draws = s.draws := rfl

/-! ### storeOutbuf -/
@[simp] theorem State.storeOutbuf_d (s : State) (bs : List Byte) : (s.storeOutbuf bs).d = s.d := rfl
@[simp] theorem State.storeOutbuf_payload (s : State) (bs : List Byte) : (s.storeOutbuf bs).payload = s.payload := rfl
@[simp] theorem State.storeOutbuf_res (s : State) (bs : List Byte) : (s.storeOutbuf bs).res = s.res := rfl
@[simp] theorem State.storeOutbuf_outbuf (s : State) (bs : List Byte) : (s.storeOutbuf bs).outbuf = s.outbuf.setFrom 0 bs := rfl
@[simp] theorem State.storeOutbuf_faults (s : State) (bs : List Byte) : (s.storeOutbuf bs).faults = s.faults := rfl
@[simp] theorem State.storeOutbuf_host (s : State) (bs : List Byte) : (s.storeOutbuf bs).host = s.host := rfl
@[simp] theorem State.storeOutbuf_hostReads (s : State) (bs : List Byte) : (s.storeOutbuf bs).hostReads = s.hostReads := rfl
@[simp] theorem State.storeOutbuf_draws (s : State) (bs : List Byte) : (s.storeOutbuf bs).draws = s.draws := rfl

/-! ### setDraws -/
@[simp] theorem State.setDraws_d (s : State) (n : Nat) : (s.setDraws n).d = s.d := rfl
@[simp] theorem State.setDraws_payload (s : State) (n : Nat) : (s.setDraws n).payload = s.payload := rfl
@[simp] theorem State.setDraws_res (s : State) (n : Nat) : (s.setDraws n).res = s.res := rfl
@[simp] theorem State.setDraws_outbuf (s : State) (n : Nat) : (s.setDraws n).outbuf = s.outbuf := rfl
@[simp] theorem State.setDraws_faults (s : State) (n : Nat) : (s.setDraws n).faults = s.faults := rfl
@[simp] theorem State.setDraws_host (s : State) (n : Nat) : (s.setDraws n).host = s.host := rfl
@[simp] theorem State.setDraws_hostReads (s : State) (n : Nat) : (s.setDraws n).hostReads = s.hostReads := rfl
@[simp] theorem State.setDraws_draws (s : State) (n : Nat) : (s.setDraws n).draws = n := rfl

/-! ### pushRead -/
@[simp] theorem State.pushRead_d (s : State) (b : Byte) : (s.pushRead b).d = s.d := rfl
@[simp] theorem State.pushRead_payload (s : State) (b : Byte) : (s.pushRead b).payload = s.payload := rfl
@[simp] theorem State.pushRead_res (s : State) (b : Byte) : (s.pushRead b).res = s.res := rfl
@[simp] theorem State.pushRead_outbuf (s : State) (b : Byte) : (s.pushRead b).outbuf = s.outbuf := rfl
@[simp] theorem State.pushRead_faults (s : State) (b : Byte) : (s.pushRead b).faults = s.faults := rfl
@[simp] theorem State.pushRead_host (s : State) (b : Byte) : (s.pushRead b).host = s.host := rfl
@[simp] theorem State.pushRead_hostReads (s : State) (b : Byte) : (s.pushRead b).hostReads = b :: s.hostReads := rfl
@[simp] theorem State.pushRead_draws (s : State) (b : Byte) : (s.pushRead b).draws = s.draws := rfl

/-! ### record -/
@[simp] theorem State.record_d (s : State) (k : FaultKind) : (s.record k).d = s.d := rfl
@[simp] theorem State.record_payload (s : State) (k : FaultKind) : (s.record k).payload = s.payload := rfl
@[simp] theorem State.record_res (s : State) (k : FaultKind) : (s.record k).res = s.res := rfl
@[simp] theorem State.record_outbuf (s : State) (k : FaultKind) : (s.record k).outbuf = s.outbuf := rfl
@[simp] theorem State.record_faults (s : State) (k : FaultKind) : (s.record k).faults = s.faults.add k := rfl
@[simp] theorem State.record_host (s : State) (k : FaultKind) : (s.record k).host = s.host := rfl
@[simp] theorem State.record_hostReads (s : State) (k : FaultKind) : (s.record k).hostReads = s.hostReads := rfl
@[simp] theorem State.record_draws (s : State) (k : FaultKind) : (s.record k).draws = s.draws := rfl

/-! ### applyReset -/
@[simp] theorem State.applyReset_d (s : State) : s.applyReset.d = DescRegs.reset := rfl
@[simp] theorem State.applyReset_payload (s : State) : s.applyReset.payload = [] := rfl
@[simp] theorem State.applyReset_res (s : State) : s.applyReset.res = ResultRegs.reset := rfl
@[simp] theorem State.applyReset_outbuf (s : State) : s.applyReset.outbuf = [] := rfl
@[simp] theorem State.applyReset_faults (s : State) : s.applyReset.faults = s.faults := rfl
@[simp] theorem State.applyReset_host (s : State) : s.applyReset.host = s.host := rfl
@[simp] theorem State.applyReset_hostReads (s : State) : s.applyReset.hostReads = s.hostReads := rfl
@[simp] theorem State.applyReset_draws (s : State) : s.applyReset.draws = s.draws := rfl

/-! ### withBusWord -/
@[simp] theorem State.withBusWord_d (s : State) (w : BusWord) : (s.withBusWord w).d = s.d := rfl
@[simp] theorem State.withBusWord_payload (s : State) (w : BusWord) : (s.withBusWord w).payload = s.payload := rfl
@[simp] theorem State.withBusWord_res (s : State) (w : BusWord) : (s.withBusWord w).res = s.res := rfl
@[simp] theorem State.withBusWord_outbuf (s : State) (w : BusWord) : (s.withBusWord w).outbuf = s.outbuf := rfl
@[simp] theorem State.withBusWord_faults (s : State) (w : BusWord) : (s.withBusWord w).faults = s.faults := rfl
@[simp] theorem State.withBusWord_host (s : State) (w : BusWord) : (s.withBusWord w).host = .bus w :: s.host := rfl
@[simp] theorem State.withBusWord_hostReads (s : State) (w : BusWord) : (s.withBusWord w).hostReads = s.hostReads := rfl
@[simp] theorem State.withBusWord_draws (s : State) (w : BusWord) : (s.withBusWord w).draws = s.draws := rfl

/-! ### Registers of the state after reset -/
@[simp] theorem FaultRecord.has_empty (k : FaultKind) : FaultRecord.empty.has k = false := by cases k <;> rfl

/-- A kind just recorded is in the record. -/
@[simp] theorem FaultRecord.has_add_self (f : FaultRecord) (k : FaultKind) : (f.add k).has k = true := by
  cases k <;> rfl

/-- Recording a kind takes no kind out. -/
theorem FaultRecord.has_add_of_has (f : FaultRecord) (k j : FaultKind) (h : f.has j = true) :
    (f.add k).has j = true := by
  cases k <;> cases j <;> simp_all [FaultRecord.has, FaultRecord.add]

/-- A kind other than the one recorded is in the record exactly when it was. -/
theorem FaultRecord.has_add_of_ne (f : FaultRecord) (k j : FaultKind) (h : j ≠ k) :
    (f.add k).has j = f.has j := by
  cases k <;> cases j <;> simp_all [FaultRecord.has, FaultRecord.add]

/-- The fault of a kind has that kind. -/
@[simp] theorem FaultKind.kind_fault (k : FaultKind) (s : State) : (k.fault s).kind = k := by
  cases k <;> rfl

/-- The fault of a kind at a state leaves that state. -/
@[simp] theorem FaultKind.state_fault (k : FaultKind) (s : State) : (k.fault s).state = s := by
  cases k <;> rfl

end Sys2Proof.Machine
end

