-- ==== Sys2Proof/Laws/Ops.lean ====
section
/-! SUPPORT. What each shared operation can do, said once: the address map at each range, a read's answer, a
raised fault, the completions, the command template, RD, WR and the step. -/

namespace Sys2Proof.Machine

/-! ### The address map (20_memory.md R44) -/

theorem locateNat_daddr (k : Nat) (h : k < 8) : locateNat (0x008 + k) = .daddr k := by
  interval_cases k <;> rfl

theorem locateNat_dpan (k : Nat) (h : k < 2) : locateNat (0x010 + k) = .dpan k := by
  interval_cases k <;> rfl

theorem locateNat_span (k : Nat) (h : k < 2) : locateNat (0x012 + k) = .span k := by
  interval_cases k <;> rfl

theorem locateNat_saddr (k : Nat) (h : k < 8) : locateNat (0x018 + k) = .saddr k := by
  interval_cases k <;> rfl

theorem locateNat_result (k : Nat) (h : k < 8) : locateNat (0x020 + k) = .result k := by
  interval_cases k <;> rfl

theorem locateNat_payload (i : Nat) (h : i < 122) : locateNat (0x100 + i) = .payload i := by
  have h1 : ¬0x100 + i < 0x008 := by omega
  have h2 : ¬0x100 + i < 0x010 := by omega
  have h3 : ¬0x100 + i < 0x012 := by omega
  have h4 : ¬0x100 + i < 0x014 := by omega
  have h5 : ¬0x100 + i < 0x018 := by omega
  have h6 : ¬0x100 + i < 0x020 := by omega
  have h7 : ¬0x100 + i < 0x028 := by omega
  have h8 : ¬0x100 + i = 0x028 := by omega
  have h9 : ¬0x100 + i < 0x100 := by omega
  have h10 : 0x100 + i < 0x17A := by omega
  simp only [locateNat, h1, h2, h3, h4, h5, h6, h7, h8, h9, h10, if_true, if_false, Nat.add_sub_cancel_left]

theorem locateNat_outbuf (i : Nat) (h : i < 127) : locateNat (0x180 + i) = .outbuf i := by
  have h1 : ¬0x180 + i < 0x008 := by omega
  have h2 : ¬0x180 + i < 0x010 := by omega
  have h3 : ¬0x180 + i < 0x012 := by omega
  have h4 : ¬0x180 + i < 0x014 := by omega
  have h5 : ¬0x180 + i < 0x018 := by omega
  have h6 : ¬0x180 + i < 0x020 := by omega
  have h7 : ¬0x180 + i < 0x028 := by omega
  have h8 : ¬0x180 + i = 0x028 := by omega
  have h9 : ¬0x180 + i < 0x100 := by omega
  have h10 : ¬0x180 + i < 0x17A := by omega
  have h11 : ¬0x180 + i < 0x180 := by omega
  have h12 : 0x180 + i < 0x1FF := by omega
  simp only [locateNat, h1, h2, h3, h4, h5, h6, h7, h8, h9, h10, h11, h12, if_true, if_false,
    Nat.add_sub_cancel_left]

/-- An offset written as a number below 0x200 names what the map says of the number. -/
theorem locate_ofNat (n : Nat) (h : n < 0x200) : locate (BitVec.ofNat 9 n) = locateNat n := by
  simp only [locate, BitVec.toNat_ofNat, Nat.mod_eq_of_lt (show n < 2 ^ 9 from h)]

/-- The control registers are no RAM bytes, and only the first is CMD. -/
theorem locateControl_bounds (n : Nat) :
    (locateControl n = .cmd → n = 0) ∧ (∀ i, locateControl n ≠ .payload i) ∧ ∀ i, locateControl n ≠ .outbuf i := by
  unfold locateControl
  split <;> simp

/-- What the address map can answer: only offset 0x000 is CMD, and every RAM index is inside its RAM. -/
theorem locateNat_bounds (n : Nat) :
    (locateNat n = .cmd → n = 0) ∧ (∀ i, locateNat n = .payload i → i < 122)
      ∧ (∀ i, locateNat n = .outbuf i → i < 127) := by
  obtain ⟨hc, hp, ho⟩ := locateControl_bounds n
  by_cases h1 : n < 0x008
  · simp only [locateNat, h1, if_true]
    exact ⟨hc, fun i h => absurd h (hp i), fun i h => absurd h (ho i)⟩
  by_cases h2 : n < 0x100
  · have h3 : n < 0x17A := by omega
    simp only [locateNat, h1, h2, if_false, if_true]
    refine ⟨fun h => ?_, fun i h => ?_, fun i h => ?_⟩ <;> (repeat' split at h) <;> simp at h
  have h3 : ¬n < 0x010 := by omega
  have h4 : ¬n < 0x012 := by omega
  have h5 : ¬n < 0x014 := by omega
  have h6 : ¬n < 0x018 := by omega
  have h7 : ¬n < 0x020 := by omega
  have h8 : ¬n < 0x028 := by omega
  have h9 : ¬n = 0x028 := by omega
  simp only [locateNat, h1, h2, h3, h4, h5, h6, h7, h8, h9, if_false]
  refine ⟨fun h => ?_, fun i h => ?_, fun i h => ?_⟩ <;> (repeat' split at h) <;> simp at h <;> omega

/-- The same of a host offset. -/
theorem locate_bounds (off : Offset) :
    (locate off = .cmd → off = 0#9) ∧ (∀ i, locate off = .payload i → i < Config.payloadCap)
      ∧ (∀ i, locate off = .outbuf i → i < Config.mpduMax) :=
  ⟨fun h => BitVec.eq_of_toNat_eq (by simpa using (locateNat_bounds off.toNat).1 h),
    (locateNat_bounds off.toNat).2⟩

/-! ### Answers, faults, completions -/

/-- A read returns exactly one byte, and changes nothing but what the host has received and how many draws
are used. -/
theorem State.respond_spec (s : State) (o : Option Byte) :
    s.respond o = { s with
      hostReads := o.getD (Config.draw s.draws) :: s.hostReads
      draws := if o.isSome then s.draws else s.draws + 1 } := by
  cases o <;> rfl

/-- A raised fault stops with the state in which the kind is recorded and nothing else is changed. -/
theorem State.raise_spec (s : State) (k : FaultKind) :
    ∃ f, s.raise k = .fault f ∧ f.kind = k ∧ f.state = { s with faults := s.faults.add k } :=
  ⟨_, rfl, FaultKind.kind_fault k _, FaultKind.state_fault k _⟩

theorem State.complete_spec {w : Nat} (s : State) (v : BitVec w) :
    s.complete v = { s with res := { s.res with status := 0x10#8, result := v.setWidth 64 } } := rfl

theorem State.completeNone_spec (s : State) :
    s.completeNone = { s with res := { s.res with status := 0x00#8, result := 0#64 } } := rfl

/-- A failed command's STATUS is its code (42_host_bus.md R174). -/
theorem State.fail_spec (s : State) (e : ErrCode) :
    s.fail e = { s with res := { s.res with status := e.code.setWidth 8, result := 0#64 } } := by
  cases e <;> rfl

/-- SER on an invalid descriptor clears OUTLEN, a query does not (42_host_bus.md R176). -/
theorem State.badDesc_spec (s : State) (c : Byte) :
    s.badDesc c = { s with res := { s.res with
      status := 0x02#8, result := 0#64, outlen := if c = 0x20#8 then 0#8 else s.res.outlen } } := by
  unfold State.badDesc
  split <;> rfl

/-- Every command answers a next state: the invalid-descriptor path, or its rule on the descriptor decoded
from the state before (42_host_bus.md R173). -/
theorem runCommand_cases (c : Byte) (rule : FrameDesc → State → State) (s : State) :
    (desc s.d = none ∧ runCommand c rule s = .next ((s.storeCmd c).badDesc c))
      ∨ (∃ fd, desc s.d = some fd ∧ runCommand c rule s = .next (rule fd (s.storeCmd c))) := by
  unfold runCommand
  cases h : desc s.d with
  | none => exact .inl ⟨rfl, rfl⟩
  | some fd => exact .inr ⟨fd, rfl, rfl⟩

/-! ### RD, WR and the step -/

/-- RD raises UNMAPPED or OUT_INDEX, or returns the stored byte or a draw (42_host_bus.md R170). -/
theorem execRd_cases (off : Offset) (s : State) :
    (locate off = .unmapped ∧ execRd off s = s.raise .unmapped)
      ∨ (∃ i, locate off = .outbuf i ∧ s.res.outlen.toNat ≤ i ∧ execRd off s = s.raise .outIndex)
      ∨ (locate off ≠ .unmapped
        ∧ (∀ i, locate off = .outbuf i → i < s.res.outlen.toNat)
        ∧ execRd off s = .next (s.respond (s.stored (locate off)))) := by
  unfold execRd
  split
  · exact .inl ⟨‹_›, rfl⟩
  · rename_i i h
    split
    · refine .inr (.inr ⟨by simp [h], fun j hj => ?_, by simp [h]⟩)
      cases h.symm.trans hj
      assumption
    · exact .inr (.inl ⟨i, h, by omega, rfl⟩)
  · rename_i h1 h2
    exact .inr (.inr ⟨h1, fun i hi => absurd hi (h2 i), rfl⟩)

/-- WR at an offset other than CMD raises UNMAPPED or RO_WRITE, writes one PAYLOAD byte, or writes one byte
of a descriptor register (42_host_bus.md R171). -/
theorem execWr_cases (off : Offset) (v : Byte) (s : State) (h0 : off ≠ 0#9) :
    (locate off = .unmapped ∧ execWr off v s = s.raise .unmapped)
      ∨ (execWr off v s = s.raise .roWrite
        ∧ (locate off = .status ∨ (∃ k, locate off = .result k) ∨ locate off = .outlen
          ∨ ∃ i, locate off = .outbuf i))
      ∨ (∃ i, locate off = .payload i ∧ execWr off v s = .next (s.writePayload i v))
      ∨ (execWr off v s = .next (s.writeReg (locate off) v)
        ∧ (locate off = .ftsel ∨ locate off = .ftraw ∨ locate off = .flags ∨ locate off = .seq
          ∨ locate off = .addrcfg ∨ locate off = .plen ∨ (∃ k, locate off = .daddr k)
          ∨ (∃ k, locate off = .dpan k) ∨ (∃ k, locate off = .span k) ∨ ∃ k, locate off = .saddr k)) := by
  have hc : locate off ≠ .cmd := fun h => h0 ((locate_bounds off).1 h)
  unfold execWr
  cases h : locate off <;> simp_all

/-- One step takes the first thing the outside does, or leaves the state as it is (00_scope.md R11). -/
theorem step_cases (s : State) :
    (s.host = [] ∧ step s = .next s)
      ∨ (∃ w rest, s.host = .bus w :: rest ∧ step s = exec (decode w) { s with host := rest })
      ∨ (∃ rest, s.host = .rst :: rest ∧ step s = .next ({ s with host := rest } : State).applyReset) := by
  unfold step State.fetch
  cases h : s.host with
  | nil => exact .inl ⟨rfl, rfl⟩
  | cons e rest =>
    cases e with
    | bus w => exact .inr (.inl ⟨w, rest, rfl, rfl⟩)
    | rst => exact .inr (.inr ⟨rest, rfl, rfl⟩)

end Sys2Proof.Machine
end

