-- ==== Sys2Proof/Laws/Operands.lean ====
section
/-! SUPPORT. What the operands of the commands can be: the payload list, the serialized bytes, and which
descriptors decode. -/

namespace Sys2Proof.Machine

/-- A payload list has as many bytes as it was asked for (30_encoding.md R75). -/
@[simp] theorem length_payloadFrom (m : Memory) (n i k : Nat) : (payloadFrom m i k n).1.length = n := by
  induction n generalizing i k with
  | zero => rfl
  | succ n ih =>
    simp only [payloadFrom]
    split <;> simp [ih]

/-- Building a payload list never gives draws back. -/
theorem le_draws_payloadFrom (m : Memory) (n i k : Nat) : k ≤ (payloadFrom m i k n).2 := by
  induction n generalizing i k with
  | zero => exact le_refl k
  | succ n ih =>
    simp only [payloadFrom]
    split
    · exact ih (i + 1) k
    · exact le_trans (Nat.le_succ k) (ih (i + 1) (k + 1))

/-- A payload all of whose bytes have been written takes no draw. -/
theorem payloadFrom_written (m : Memory) (n i k : Nat)
    (h : ∀ j, i ≤ j → j < i + n → (m.get? j).isSome = true) :
    (payloadFrom m i k n).2 = k
      ∧ ∀ j, j < n → (payloadFrom m i k n).1[j]? = m.get? (i + j) := by
  induction n generalizing i with
  | zero => exact ⟨rfl, fun j hj => absurd hj (Nat.not_lt_zero j)⟩
  | succ n ih =>
    obtain ⟨b, hb⟩ := Option.isSome_iff_exists.1 (h i (le_refl i) (by omega))
    obtain ⟨h2, h1⟩ := ih (i + 1) fun j h1 h2 => h j (by omega) (by omega)
    simp only [payloadFrom, hb]
    refine ⟨h2, fun j hj => ?_⟩
    cases j with
    | zero => simp [hb]
    | succ j =>
      rw [List.getElem?_cons_succ, h1 j (by omega)]
      congr 1
      omega

/-- The bytes of a present or absent address (41_frame_codec.md R141, R142). -/
theorem length_addrBytes (o : Option Address) :
    (addrBytes o).length = 0 ∨ (addrBytes o).length = 2 ∨ (addrBytes o).length = 8 := by
  rcases o with _ | ⟨_ | _⟩ <;> simp [addrBytes]

/-- The address block has at most 20 bytes (41_frame_codec.md R142). -/
theorem addressBlockLength_le (a : Addresses) : addressBlockLength a ≤ 20 := by
  rcases a with ⟨s, d⟩ | ⟨s, d⟩
  · rcases s with _ | _ <;> rcases d with ⟨_ | _, p⟩ <;>
      simp [addressBlockLength, addressBlock, destinationAddress, destinationPanId, sourceAddress, sourcePanId,
        addrBytes, panBytes]
  · rcases s with _ | ⟨_ | _, p⟩ <;> rcases d with _ | ⟨_ | _, q⟩ <;>
      simp [addressBlockLength, addressBlock, destinationAddress, destinationPanId, sourceAddress, sourcePanId,
        addrBytes, panBytes]

/-- `serialize` refuses a frame over 127 bytes, and gives a byte list 2 shorter than the length otherwise
(41_frame_codec.md R150). -/
theorem serialize_cases (fd : FrameDesc) (s : State) :
    (127 < mpduLength fd ∧ serialize fd s = .error .oversize)
      ∨ (mpduLength fd ≤ 127 ∧ ∃ m, serialize fd s = .ok m
        ∧ m.bytes = headerBytes fd ++ addressBlock fd.addresses ++ (s.payloadList fd.payloadLength).1
        ∧ m.length = mpduLength fd
        ∧ m.draws = (s.payloadList fd.payloadLength).2
        ∧ m.bytes.length + 2 = mpduLength fd) := by
  unfold serialize
  split
  · exact .inl ⟨‹_›, rfl⟩
  · rename_i h
    refine .inr ⟨Nat.le_of_not_lt h, _, rfl, rfl, rfl, rfl, ?_⟩
    simp only [headerBytes, State.payloadList, List.length_append, List.length_cons, List.length_nil,
      length_payloadFrom, mpduLength, addressBlockLength, Config.fcLen, Config.seqLen, Config.fcsLen]

/-! ### The descriptor (30_encoding.md R70 to R73) -/

/-- The four values of a mode field. -/
theorem mode_cases (m : BitVec 2) : m = 0b00#2 ∨ m = 0b01#2 ∨ m = 0b10#2 ∨ m = 0b11#2 := by
  have h : m.toNat < 4 := m.isLt
  have e : ∀ n, m.toNat = n → m = BitVec.ofNat 2 n := fun n hn => BitVec.eq_of_toNat_eq (by
    rw [hn, BitVec.toNat_ofNat, Nat.mod_eq_of_lt (by omega)])
  interval_cases hm : m.toNat
  · exact .inl (e 0 rfl)
  · exact .inr (.inl (e 1 rfl))
  · exact .inr (.inr (.inl (e 2 rfl)))
  · exact .inr (.inr (.inr (e 3 rfl)))

/-- An address operand is invalid exactly for mode 0b01 (R73), else it is the address the mode selects. -/
theorem decodeAddress_spec (m : BitVec 2) (raw : BitVec 64) :
    decodeAddress m raw =
      if m = 0b01#2 then .invalid
      else if m = 0b00#2 then .absent
      else .present (if m = 0b10#2 then .short (raw.extractLsb' 0 16) else .long raw) := by
  rcases mode_cases m with rfl | rfl | rfl | rfl <;> rfl

/-- The mode of an address operand selects its addressing mode (40_address_model.md R101). -/
theorem addressMode_selected (m : BitVec 2) (raw : BitVec 64) (h0 : m ≠ 0b00#2) (h1 : m ≠ 0b01#2) :
    addressMode (if m = 0b10#2 then .short (raw.extractLsb' 0 16) else .long raw) = m := by
  rcases mode_cases m with rfl | rfl | rfl | rfl
  · exact absurd rfl h0
  · exact absurd rfl h1
  · rfl
  · rfl

/-- Which addressing decodes, and what every accessor gives of the result, in terms of the registers (R72,
40_address_model.md R105 to R109). -/
theorem decodeAddresses_cases (d : DescRegs) :
    (decodeAddresses d = none
        ∧ (d.dmode = 0b01#2 ∨ d.smode = 0b01#2 ∨ (d.shape = true ∧ (d.dmode = 0b00#2 ∨ d.smode = 0b00#2))))
      ∨ ∃ a, decodeAddresses d = some a
        ∧ d.dmode ≠ 0b01#2 ∧ d.smode ≠ 0b01#2
        ∧ (d.shape = true → d.dmode ≠ 0b00#2 ∧ d.smode ≠ 0b00#2)
        ∧ isWithinPan a = d.shape
        ∧ destinationAddress a = (if d.dmode = 0b00#2 then none
            else some (if d.dmode = 0b10#2 then .short (d.daddr.extractLsb' 0 16) else .long d.daddr))
        ∧ sourceAddress a = (if d.smode = 0b00#2 then none
            else some (if d.smode = 0b10#2 then .short (d.saddr.extractLsb' 0 16) else .long d.saddr))
        ∧ destinationPanId a = (if d.dmode = 0b00#2 then none else some d.dpan)
        ∧ sourcePanId a = (if d.shape = true ∨ d.smode = 0b00#2 then none else some d.span) := by
  simp only [decodeAddresses, decodeAddress_spec]
  by_cases hd1 : d.dmode = 0b01#2
  · exact .inl ⟨by rw [if_pos hd1]; rfl, .inl hd1⟩
  by_cases hs1 : d.smode = 0b01#2
  · refine .inl ⟨?_, .inr (.inl hs1)⟩
    rw [if_pos hs1, if_neg hd1]
    split <;> rfl
  rw [if_neg hd1, if_neg hs1]
  by_cases hd0 : d.dmode = 0b00#2 <;> by_cases hs0 : d.smode = 0b00#2 <;> cases hsh : d.shape <;>
    simp [hd0, hs0, hd1, hs1, joinAddresses, isWithinPan, destinationAddress, sourceAddress, destinationPanId,
      sourcePanId]

/-- The frame types that decode: KIND below 5 (R71). -/
theorem decodeFt_cases (k : BitVec 3) (raw : Byte) :
    (decodeFt k raw = none ∧ (k = 5#3 ∨ k = 6#3 ∨ k = 7#3))
      ∨ ∃ t, decodeFt k raw = some t ∧ k.toNat < 5
        ∧ ftCode t = if k = 4#3 then raw.extractLsb' 0 3 else k := by
  have h : k.toNat < 8 := k.isLt
  have e : ∀ n, k.toNat = n → k = BitVec.ofNat 3 n := fun n hn => BitVec.eq_of_toNat_eq (by
    rw [hn, BitVec.toNat_ofNat, Nat.mod_eq_of_lt (by omega)])
  interval_cases hk : k.toNat
  · exact .inr ⟨.beacon, by rw [e 0 rfl]; exact ⟨rfl, by omega, rfl⟩⟩
  · exact .inr ⟨.data, by rw [e 1 rfl]; exact ⟨rfl, by omega, rfl⟩⟩
  · exact .inr ⟨.acknowledge, by rw [e 2 rfl]; exact ⟨rfl, by omega, rfl⟩⟩
  · exact .inr ⟨.macCommand, by rw [e 3 rfl]; exact ⟨rfl, by omega, rfl⟩⟩
  · exact .inr ⟨.other raw, by rw [e 4 rfl]; exact ⟨rfl, by omega, rfl⟩⟩
  · exact .inl ⟨by rw [e 5 rfl]; rfl, .inl (e 5 rfl)⟩
  · exact .inl ⟨by rw [e 6 rfl]; rfl, .inr (.inl (e 6 rfl))⟩
  · exact .inl ⟨by rw [e 7 rfl]; rfl, .inr (.inr (e 7 rfl))⟩

/-- `desc` decodes exactly when both of its decoders do, and then copies the flags, SEQ and PLEN (R70). -/
theorem desc_eq (d : DescRegs) :
    desc d = (decodeFt d.kind d.ftraw).bind fun ft => (decodeAddresses d).map fun ad =>
      { frameType := ft, securityEnabled := d.sec, framePending := d.pend, acknowledgmentRequest := d.ar,
        sequenceNumber := d.seq, addresses := ad, payloadLength := d.plen.toNat } := by
  unfold desc
  cases decodeFt d.kind d.ftraw <;> cases decodeAddresses d <;> rfl

end Sys2Proof.Machine
end

