-- ==== Sys2Proof/Laws/Commands.lean ====
section
/-! SUPPORT. Each command as the shared template with its rule (42_host_bus.md R173), and what SER's rule can
do. -/

namespace Sys2Proof.Machine

theorem exec_qwpan (s : State) : exec .qwpan s =
    runCommand 0x10#8 (fun fd t => t.complete (BitVec.ofBool (isWithinPan fd.addresses))) s := rfl

theorem exec_qdmode (s : State) : exec .qdmode s =
    runCommand 0x11#8 (fun fd t => t.complete (destinationMode fd.addresses)) s := rfl

theorem exec_qsmode (s : State) : exec .qsmode s =
    runCommand 0x12#8 (fun fd t => t.complete (sourceMode fd.addresses)) s := rfl

theorem exec_qdpan (s : State) : exec .qdpan s =
    runCommand 0x13#8 (fun fd t => t.completeOption (destinationPanId fd.addresses)) s := rfl

theorem exec_qdaddr (s : State) : exec .qdaddr s =
    runCommand 0x14#8 (fun fd t => t.completeOption ((destinationAddress fd.addresses).map addressValue)) s := rfl

theorem exec_qspan (s : State) : exec .qspan s =
    runCommand 0x15#8 (fun fd t => t.completeOption (sourcePanId fd.addresses)) s := rfl

theorem exec_qsaddr (s : State) : exec .qsaddr s =
    runCommand 0x16#8 (fun fd t => t.completeOption ((sourceAddress fd.addresses).map addressValue)) s := rfl

theorem exec_qftype (s : State) : exec .qftype s =
    runCommand 0x17#8 (fun fd t => t.complete (ftCode fd.frameType)) s := rfl

theorem exec_qfcf (s : State) : exec .qfcf s = runCommand 0x18#8
    (fun fd t => t.complete (((fcf1 fd).setWidth 16 <<< 8) ||| (fcf0 fd).setWidth 16)) s := rfl

theorem exec_qablen (s : State) : exec .qablen s =
    runCommand 0x19#8 (fun fd t => t.complete (BitVec.ofNat 64 (addressBlockLength fd.addresses))) s := rfl

theorem exec_qmlen (s : State) : exec .qmlen s =
    runCommand 0x1A#8 (fun fd t => t.complete (BitVec.ofNat 64 (mpduLength fd))) s := rfl

theorem exec_ser (s : State) : exec .ser s =
    runCommand 0x20#8 (fun fd t => t.finishSer (serialize fd t)) s := rfl

/-- SER's rule either refuses, leaving OUTBUF as it was, or writes the whole MPDU (41_frame_codec.md R160). -/
theorem finishSer_cases (s : State) (fd : FrameDesc) :
    (127 < mpduLength fd ∧ s.finishSer (serialize fd s) = { s with
        res := { s.res with status := 0x01#8, result := 0#64, outlen := 0#8 } })
      ∨ (mpduLength fd ≤ 127 ∧ ∃ bytes,
        bytes = headerBytes fd ++ addressBlock fd.addresses ++ (s.payloadList fd.payloadLength).1
        ∧ bytes.length + 2 = mpduLength fd
        ∧ s.finishSer (serialize fd s) = { s with
            outbuf := s.outbuf.setFrom 0 bytes
            draws := (s.payloadList fd.payloadLength).2
            res := { s.res with status := 0x10#8, result := BitVec.ofNat 64 (mpduLength fd),
                                outlen := BitVec.ofNat 8 bytes.length } }) := by
  rcases serialize_cases fd s with ⟨h1, h2⟩ | ⟨h1, m, h2, h3, h4, h5, h6⟩
  · exact .inl ⟨h1, by rw [h2]; rfl⟩
  · refine .inr ⟨h1, m.bytes, h3, h6, ?_⟩
    rw [h2]
    simp only [State.finishSer, State.complete_spec, h4, h5, BitVec.setWidth_eq]
    rfl

end Sys2Proof.Machine
end

