-- ==== Sys2Proof/Laws/PerInstr.lean ====
section
/-! SUPPORT. A statement made for every constructor of `Instr`: the word of an instruction is of the row of
spec/opcode_table.json that bears its mnemonic (30_encoding.md R61, R63). -/

namespace Sys2Proof.Laws.TableRow

/-- The word that encodes a well-formed `i` matches the mask and pattern of the row with `i`'s mnemonic. -/
def Statement (i : Instr) : Prop :=
  i.wellFormed = true → ∃ r ∈ opcodeRows, r.mnemonic = i.mnemonic ∧ r.accepts (encode i) = true

theorem rd (off : Offset) : Statement (.rd off) := fun _ => by
  refine ⟨⟨"RD", 0x00000#18, 0x20000#18⟩, by simp [opcodeRows], rfl, ?_⟩
  simp only [OpcodeRow.accepts, beq_iff_eq, encode, busRead]
  apply BitVec.eq_of_getLsbD_eq
  intro i hi
  interval_cases i <;> simp

theorem wr (off : Offset) (v : Byte) : Statement (.wr off v) := fun _ => by
  refine ⟨⟨"WR", 0x20000#18, 0x20000#18⟩, by simp [opcodeRows], rfl, ?_⟩
  simp only [OpcodeRow.accepts, beq_iff_eq, encode, busWrite]
  apply BitVec.eq_of_getLsbD_eq
  intro i hi
  interval_cases i <;> simp

theorem cmdx (c : Byte) : Statement (.cmdx c) := fun _ => by
  refine ⟨⟨"CMDX", 0x20000#18, 0x3FF00#18⟩, by simp [opcodeRows], rfl, ?_⟩
  simp only [OpcodeRow.accepts, beq_iff_eq, encode, busWrite]
  apply BitVec.eq_of_getLsbD_eq
  intro i hi
  interval_cases i <;> simp

theorem qwpan : Statement .qwpan := fun _ => by decide
theorem qdmode : Statement .qdmode := fun _ => by decide
theorem qsmode : Statement .qsmode := fun _ => by decide
theorem qdpan : Statement .qdpan := fun _ => by decide
theorem qdaddr : Statement .qdaddr := fun _ => by decide
theorem qspan : Statement .qspan := fun _ => by decide
theorem qsaddr : Statement .qsaddr := fun _ => by decide
theorem qftype : Statement .qftype := fun _ => by decide
theorem qfcf : Statement .qfcf := fun _ => by decide
theorem qablen : Statement .qablen := fun _ => by decide
theorem qmlen : Statement .qmlen := fun _ => by decide
theorem ser : Statement .ser := fun _ => by decide

end Sys2Proof.Laws.TableRow
end

