-- ==== Sys2Proof/Machine/Asm.lean ====
section
/-! DEFINITION. The text form of host programs (30_encoding.md R80, R81): one transaction or
pseudo-instruction a line, read into the transactions it stands for. -/

namespace Sys2Proof.Machine

/-- Why a line is no program line. -/
inductive AsmError where
  /-- A character that stands in no program line. -/
  | badCharacter
  /-- No literal of the form or width R80 asks for. -/
  | badLiteral
  /-- No offset or register name of 10_state.md. -/
  | badOffset
  /-- No mnemonic of R63 after CMD. -/
  | badCommand
  /-- No statement of R80 or R81. -/
  | badForm
  /-- A pseudo-instruction that runs past offset 0x1FF. -/
  | pastWindow
  deriving DecidableEq, Repr

/-- The pieces of a line. -/
inductive Token where
  | word (cs : List Char)
  | comma
  | openBracket
  | closeBracket
  | plus
  deriving DecidableEq, Repr

/-- The characters that are a token by themselves. -/
def punctuation (c : Char) : Option Token :=
  if c = ',' then some .comma
  else if c = '[' then some .openBracket
  else if c = ']' then some .closeBracket
  else if c = '+' then some .plus
  else none

/-- The word read so far (last character first), if any, in front of the tokens after it. -/
def endWord (acc : List Char) (ts : List Token) : List Token :=
  match acc with
  | [] => ts
  | _ => .word acc.reverse :: ts

/-- The tokens of a line; `;` starts a comment (R80). -/
def tokenize : List Char → List Char → Except AsmError (List Token)
  | [], acc => .ok (endWord acc [])
  | c :: cs, acc =>
    if c = ';' then .ok (endWord acc [])
    else if c = ' ' || c = '\t' then (tokenize cs []).map (endWord acc)
    else
      match punctuation c with
      | some t => (tokenize cs []).map fun ts => endWord acc (t :: ts)
      | none => if c.isAlphanum then tokenize cs (c :: acc) else .error .badCharacter

/-- The sixteen digits of R80's hex literals, each at the place of its value; the first ten and the first two
are the decimal and the binary ones. -/
def digitChars : List Char := "0123456789ABCDEF".toList

/-- The value of a digit: its place among `digitChars`. A letter may be small (DESIGN CHOICE, assumption 11). -/
def digitValue (c : Char) : Option Nat := digitChars.idxOf? c.toUpper

/-- The value of a string of digits of a base, after the value `acc` of those before it. -/
def digits (base acc : Nat) : List Char → Option Nat
  | [] => some acc
  | c :: cs =>
    match digitValue c with
    | some d => if d < base then digits base (acc * base + d) cs else none
    | none => none

/-- A hex or binary literal (R80). -/
def literal : List Char → Option Nat
  | '0' :: 'x' :: c :: cs => digits 16 0 (c :: cs)
  | '0' :: 'b' :: c :: cs => digits 2 0 (c :: cs)
  | _ => none

/-- An index, a `+k` or a count: decimal, or a literal (DESIGN CHOICE, assumption 11). -/
def count (cs : List Char) : Option Nat :=
  match cs, literal cs with
  | [], _ => none
  | _, some n => some n
  | _, none => digits 10 0 cs

/-- A literal of a width, as a value of that width (R80 "8 bits", R81). -/
def literalOf (w : Nat) (cs : List Char) : Except AsmError (BitVec w) :=
  match literal cs with
  | some n => if n < 2 ^ w then .ok (BitVec.ofNat w n) else .error .badLiteral
  | none => .error .badLiteral

/-- The register names of 10_state.md with their byte-0 offset; a multi-byte name means that offset (R80). -/
def registerNames : List (List Char × Nat) :=
  [("CMD".toList, 0x000), ("STATUS".toList, 0x001), ("FTSEL".toList, 0x002), ("FTRAW".toList, 0x003),
   ("FLAGS".toList, 0x004), ("SEQ".toList, 0x005), ("ADDRCFG".toList, 0x006), ("PLEN".toList, 0x007),
   ("DADDR".toList, 0x008), ("DPAN".toList, 0x010), ("SPAN".toList, 0x012), ("SADDR".toList, 0x018),
   ("RESULT".toList, 0x020), ("OUTLEN".toList, 0x028), ("PAYLOAD".toList, 0x100), ("OUTBUF".toList, 0x180)]

/-- The numbered byte names of the register map (DADDR0 to DADDR7 and so on): base name, how many bytes. That
they may stand as an offset is a DESIGN CHOICE (assumption 11). -/
def numberedNames : List (List Char × Nat) :=
  [("DADDR".toList, 8), ("DPAN".toList, 2), ("SPAN".toList, 2), ("SADDR".toList, 8), ("RESULT".toList, 8)]

/-- The indexed names and how many bytes each has (R29, R31). -/
def indexedNames : List (List Char × Nat) :=
  [("PAYLOAD".toList, Config.payloadCap), ("OUTBUF".toList, Config.mpduMax)]

/-- A numbered byte name: a base name and one digit below its size. -/
def numberedOffset (cs : List Char) : Option Nat :=
  match numberedNames.lookup cs.dropLast, cs.getLast?.bind digitValue, registerNames.lookup cs.dropLast with
  | some size, some k, some base => if k < size then some (base + k) else none
  | _, _, _ => none

/-- The offset a name or a literal gives. R80 names the hex literal; that a binary one may stand there too is a
DESIGN CHOICE (assumption 11). -/
def namedOffset (cs : List Char) : Option Nat :=
  match registerNames.lookup cs, literal cs with
  | some n, _ => some n
  | none, some n => some n
  | none, none => numberedOffset cs

/-- The element `i` of an indexed name. -/
def indexedOffset (name ix : List Char) : Option Nat :=
  match indexedNames.lookup name, count ix, registerNames.lookup name with
  | some size, some i, some base => if i < size then some (base + i) else none
  | _, _, _ => none

/-- An offset with `k` added (R80 `NAME+k`). -/
def plusOffset (o : Option Nat) (k : List Char) : Option Nat :=
  match o, count k with
  | some a, some b => some (a + b)
  | _, _ => none

/-- An offset below 0x200, with the tokens after it. -/
def asOffset (o : Option Nat) (rest : List Token) : Except AsmError (Offset × List Token) :=
  match o with
  | some n => if n < 0x200 then .ok (BitVec.ofNat 9 n, rest) else .error .badOffset
  | none => .error .badOffset

/-- The `<off>` at the front of a line (R80), with the tokens after it. R80 says what `NAME+k` means; that NAME
may be an indexed name there (`PAYLOAD[3]+2`), or a literal, is a DESIGN CHOICE (assumption 11). -/
def parseOffset : List Token → Except AsmError (Offset × List Token)
  | .word n :: .openBracket :: .word i :: .closeBracket :: .plus :: .word k :: rest =>
    asOffset (plusOffset (indexedOffset n i) k) rest
  | .word n :: .openBracket :: .word i :: .closeBracket :: rest => asOffset (indexedOffset n i) rest
  | .word n :: .plus :: .word k :: rest =>
    asOffset (plusOffset (namedOffset n) k) rest
  | .word n :: rest => asOffset (namedOffset n) rest
  | _ => .error .badForm

/-- The bytes of a bracketed list, after its opening bracket (R81 `[b0, ..., bn−1]`). That the list may be empty,
and that a comma may follow its last byte, is a DESIGN CHOICE (assumption 11). -/
def parseBytes : List Token → Except AsmError (List Byte)
  | [.closeBracket] => .ok []
  | [.word b, .closeBracket] => (literalOf 8 b).map fun v => [v]
  | .word b :: .comma :: rest =>
    match literalOf 8 b, parseBytes rest with
    | .ok v, .ok vs => .ok (v :: vs)
    | .error e, _ => .error e
    | _, .error e => .error e
  | _ => .error .badForm

/-- The commands by mnemonic (R63, R80). -/
def commandNames : List (List Char × Instr) :=
  opcodeMap.map fun row => (row.2.mnemonic.toList, row.2)

/-- A pseudo-instruction expanded, if it stays inside the window. -/
def expandChecked (p : Pseudo) : Except AsmError (List Instr) :=
  if p.fits then .ok p.expand else .error .pastWindow

/-- A statement whose offset has been read: the mnemonic, the offset, the tokens after it (R80, R81). -/
def parseOperands (mnemonic : List Char) (off : Offset) (rest : List Token) : Except AsmError (List Instr) :=
  if mnemonic = "RD".toList ∧ rest = [] then .ok [.rd off]
  else if mnemonic = "RD16".toList ∧ rest = [] then expandChecked (.rd16 off)
  else if mnemonic = "RD64".toList ∧ rest = [] then expandChecked (.rd64 off)
  else
    match rest with
    | [.comma, .word v] =>
      if mnemonic = "WR".toList then (literalOf 8 v).map fun b => [writeTransaction off b]
      else if mnemonic = "WR16".toList then (literalOf 16 v).bind fun x => expandChecked (.wr16 off x)
      else if mnemonic = "WR64".toList then (literalOf 64 v).bind fun x => expandChecked (.wr64 off x)
      else if mnemonic = "RDBUF".toList then
        match count v with
        | some n => expandChecked (.rdbuf off n)
        | none => .error .badLiteral
      else .error .badForm
    | .comma :: .openBracket :: bytes =>
      if mnemonic = "WRBUF".toList then (parseBytes bytes).bind fun bs => expandChecked (.wrbuf off bs)
      else .error .badForm
    | _ => .error .badForm

/-- The statement a line's tokens are (R80, R81); an empty line is none. -/
def parseStatement : List Token → Except AsmError (List Instr)
  | [] => .ok []
  | .word m :: rest =>
    if m = "CMD".toList then
      match rest with
      | [.word c] =>
        match commandNames.lookup c with
        | some i => .ok [i]
        | none => .error .badCommand
      | _ => .error .badForm
    else (parseOffset rest).bind fun r => parseOperands m r.1 r.2
  | _ => .error .badForm

/-- One line of a program (R80). -/
def assembleLine (line : List Char) : Except AsmError (List Instr) := (tokenize line []).bind parseStatement

/-- A program, line by line: the transactions of every line in order, or the first line's error. -/
def assemble : List (List Char) → Except AsmError (List Instr)
  | [] => .ok []
  | l :: ls =>
    match assembleLine l, assemble ls with
    | .ok is, .ok rest => .ok (is ++ rest)
    | .error e, _ => .error e
    | _, .error e => .error e

end Sys2Proof.Machine
end

