-- ==== Sys2Proof/Tests/Slice0.lean ====
section
/-! SUPPORT. Tests whose expected results stand in spec/ (95_test_vectors.md and the examples of the rules), and
for every statement with hypotheses a witness that meets them. -/

namespace Sys2Proof.Tests

open Sys2Proof.Machine

/-! ## Well-formedness: one ill-formed term for each check -/

/-- A plain WR never names CMD (R61 step 3). -/
theorem test_wf_wr : (Instr.wr 0x000#9 0x10#8).wellFormed = false ∧ (Instr.wr 0x001#9 0x10#8).wellFormed = true := by
  decide

/-- CMDX never carries a byte of the opcode map (R64): the bytes next to each group's edge. -/
theorem test_wf_cmdx :
    [0x10#8, 0x1A#8, 0x20#8].all (fun c => !(Instr.cmdx c).wellFormed) = true
      ∧ [0x00#8, 0x0F#8, 0x1B#8, 0x1F#8, 0x21#8, 0x2F#8, 0x30#8, 0xFF#8].all (fun c => (Instr.cmdx c).wellFormed)
        = true := by
  decide

/-! ## Decoding: words put together field by field (R60), or taken from 95_test_vectors.md section 3 -/

theorem test_decode_rd : decode (0b0#1 ++ 0b110001010#9 ++ 0b00000000#8) = .rd 0x18A#9 := by decide
theorem test_decode_rd_ignores_data : decode (0b0#1 ++ 0b000000000#9 ++ 0b00100000#8) = .rd 0x000#9 := by decide
theorem test_decode_wr : decode (0b1#1 ++ 0b000000110#9 ++ 0b10001001#8) = .wr 0x006#9 0x89#8 := by decide
theorem test_decode_wr_top : decode (0b1#1 ++ 0b111111111#9 ++ 0b11111111#8) = .wr 0x1FF#9 0xFF#8 := by decide
theorem test_decode_cmdx : decode (0b1#1 ++ 0b000000000#9 ++ 0b00011011#8) = .cmdx 0x1B#8 := by decide
theorem test_decode_qwpan : decode (0b1#1 ++ 0b000000000#9 ++ 0b00010000#8) = .qwpan := by decide
theorem test_decode_qdmode : decode (0b1#1 ++ 0b000000000#9 ++ 0b00010001#8) = .qdmode := by decide
theorem test_decode_qsmode : decode (0b1#1 ++ 0b000000000#9 ++ 0b00010010#8) = .qsmode := by decide
theorem test_decode_qdpan : decode (0b1#1 ++ 0b000000000#9 ++ 0b00010011#8) = .qdpan := by decide
theorem test_decode_qdaddr : decode (0b1#1 ++ 0b000000000#9 ++ 0b00010100#8) = .qdaddr := by decide
theorem test_decode_qspan : decode (0b1#1 ++ 0b000000000#9 ++ 0b00010101#8) = .qspan := by decide
theorem test_decode_qsaddr : decode (0b1#1 ++ 0b000000000#9 ++ 0b00010110#8) = .qsaddr := by decide
theorem test_decode_qftype : decode (0b1#1 ++ 0b000000000#9 ++ 0b00010111#8) = .qftype := by decide
theorem test_decode_qfcf : decode (0b1#1 ++ 0b000000000#9 ++ 0b00011000#8) = .qfcf := by decide
theorem test_decode_qablen : decode (0b1#1 ++ 0b000000000#9 ++ 0b00011001#8) = .qablen := by decide
theorem test_decode_qmlen : decode (0b1#1 ++ 0b000000000#9 ++ 0b00011010#8) = .qmlen := by decide
theorem test_decode_ser : decode (0b1#1 ++ 0b000000000#9 ++ 0b00100000#8) = .ser := by decide

/-- A number of more than 18 bits is no bus word (R60). -/
theorem test_decode_too_wide :
    decodeNat 0x40000 = .error .notBus18 ∧ decodeTableWord 24 0x40000 = none
      ∧ decodeTableWord 24 0x3FFFF = some (.wr 0x1FF#9 0xFF#8) := by
  decide

/-- The pattern of every row of opcode_table.json decodes to an instruction of that row, but for WR's, which is
a CMDX word (R61). -/
theorem test_decode_table_rows :
    opcodeRows.all (fun r => r.mnemonic == "WR" || (decode r.pattern).mnemonic == r.mnemonic) = true := by
  decide

/-! ## Small states -/

/-- The state an outcome goes on from. -/
def nextOf (o : Host.Outcome State Fault Refusal) : Option State :=
  match o with
  | .next t => some t
  | .fault _ => none
  | .refused _ => none

/-- The results a transaction leaves. -/
def resultsOf (i : Instr) (s : State) : Option ResultRegs := (nextOf (exec i s)).map (·.res)

/-- The byte a transaction returns. -/
def readOf (i : Instr) (s : State) : Option Byte := (nextOf (exec i s)).bind (·.hostReads.head?)

/-- The setup of 95_test_vectors.md section 2.1, with an ADDRCFG. -/
def addressed (cfg : Byte) : State :=
  { State.reset with d := { DescRegs.reset with
      ftsel := 0x01#8, seq := 0x42#8, addrcfg := cfg, daddr := 0x1122334455667788#64, dpan := 0xD0D1#16,
      saddr := 0x99AABBCCDDEEFF00#64, span := 0x5051#16 } }

/-- From reset, KIND and FTRAW as given (section 2.3). -/
def typed (ftsel ftraw : Byte) : State :=
  { State.reset with d := { DescRegs.reset with ftsel := ftsel, ftraw := ftraw } }

/-- From reset, ADDRCFG and PLEN as given and the first `n` payload bytes written (section 2.5). -/
def sized (cfg plen : Byte) (n : Nat) : State :=
  { State.reset with
    d := { DescRegs.reset with addrcfg := cfg, plen := plen }
    payload := (List.range n).map fun i => (i, 0x5A#8) }

/-- From reset, one event of the outside still to come. -/
def hosted (e : HostEvent) : State := { State.reset with host := [e] }

/-- A state whose OUTBUF holds one readable byte, at the last readable index. -/
def outputAt124 : State :=
  { State.reset with res := { ResultRegs.reset with outlen := 125#8 }, outbuf := [(124, 0x65#8)] }

/-! ## RD and WR (section 2.6) -/

/-- B1 and B3: reserved bits are stored as 0. -/
theorem test_wr_reserved :
    nextOf (exec (.wr 0x002#9 0xFD#8) State.reset) = some (typed 0x05#8 0x00#8)
      ∧ (nextOf (exec (.wr 0x004#9 0xFF#8) State.reset)).map (·.d.flags) = some 0x38#8
      ∧ (nextOf (exec (.wr 0x006#9 0xFF#8) State.reset)).map (·.d.addrcfg) = some 0xCD#8 := by
  decide

/-- B7, and the top byte of a multi-byte register (R40). -/
theorem test_wr_stores :
    (nextOf (exec (.wr 0x105#9 0x77#8) State.reset)).map (·.payload) = some [(5, 0x77#8)]
      ∧ (nextOf (exec (.wr 0x00F#9 0xAB#8) State.reset)).map (·.d.daddr) = some 0xAB00000000000000#64 := by
  decide

/-- R40: byte k of DADDR sits at 0x008 + k, byte 1 of SPAN at 0x013. -/
theorem test_rd_bytes :
    readOf (.rd 0x008#9) (addressed 0x89#8) = some 0x88#8 ∧ readOf (.rd 0x00F#9) (addressed 0x89#8) = some 0x11#8
      ∧ readOf (.rd 0x013#9) (addressed 0x89#8) = some 0x50#8 ∧ readOf (.rd 0x1FC#9) outputAt124 = some 0x65#8 := by
  decide

/-- B8 to B12: the host-contract violations. -/
theorem test_rd_wr_faults :
    [Instr.rd 0x180#9, .rd 0x014#9, .wr 0x1FF#9 0x00#8, .wr 0x001#9 0x00#8, .wr 0x028#9 0x05#8].all
      (fun i => nextOf (exec i State.reset) = none) = true := by
  decide

/-! ## The commands -/

/-- B13. -/
theorem test_cmdx : resultsOf (.cmdx 0xFF#8) State.reset =
    some { cmd := 0xFF#8, status := 0x03#8, result := 0#64, outlen := 0#8 } := by decide

/-- Section 2.2: BADCMD wins over the invalid descriptor. -/
theorem test_cmdx_priority : (resultsOf (.cmdx 0x00#8) (addressed 0x81#8)).map (·.status) = some 0x03#8 := by decide

theorem test_qwpan : resultsOf .qwpan (addressed 0x89#8) =
    some { cmd := 0x10#8, status := 0x10#8, result := 1#64, outlen := 0#8 } := by decide

theorem test_qwpan_invalid : resultsOf .qwpan (addressed 0x81#8) =
    some { cmd := 0x10#8, status := 0x02#8, result := 0#64, outlen := 0#8 } := by decide

theorem test_qdmode : (resultsOf .qdmode (addressed 0x0C#8)).map (·.result) = some 3#64 := by decide

theorem test_qsmode : (resultsOf .qsmode (addressed 0xC9#8)).map (·.result) = some 3#64 := by decide

theorem test_qdpan : (resultsOf .qdpan (addressed 0x89#8)).map (·.result) = some 0xD0D1#64 := by decide

theorem test_qdpan_none : resultsOf .qdpan (addressed 0x80#8) =
    some { cmd := 0x13#8, status := 0x00#8, result := 0#64, outlen := 0#8 } := by decide

theorem test_qdaddr : (resultsOf .qdaddr (addressed 0x08#8)).map (·.result) = some 0x7788#64
    ∧ (resultsOf .qdaddr (addressed 0x8D#8)).map (·.result) = some 0x1122334455667788#64 := by decide

theorem test_qspan : (resultsOf .qspan (addressed 0x88#8)).map (·.result) = some 0x5051#64 := by decide

theorem test_qspan_local : resultsOf .qspan (addressed 0x89#8) =
    some { cmd := 0x15#8, status := 0x00#8, result := 0#64, outlen := 0#8 } := by decide

theorem test_qsaddr : (resultsOf .qsaddr (addressed 0x8C#8)).map (·.result) = some 0xFF00#64
    ∧ (resultsOf .qsaddr (addressed 0xCC#8)).map (·.result) = some 0x99AABBCCDDEEFF00#64 := by decide

theorem test_qftype : (resultsOf .qftype (typed 4#8 0x2D#8)).map (·.result) = some 5#64
    ∧ (resultsOf .qftype (typed 1#8 0xFF#8)).map (·.result) = some 1#64 := by decide

/-- Section 2.2: KIND 5 is invalid. -/
theorem test_qftype_invalid : (resultsOf .qftype (typed 5#8 0x00#8)).map (·.status) = some 0x02#8 := by decide

/-- R156's example, and the maximum of section 2.4. -/
theorem test_qfcf :
    (resultsOf .qfcf { State.reset with d := { DescRegs.reset with
        ftsel := 0x01#8, flags := 0x20#8, addrcfg := 0x89#8 } }).map (·.result) = some 0x8861#64
      ∧ (resultsOf .qfcf { State.reset with d := { DescRegs.reset with
          ftsel := 0x04#8, ftraw := 0xFF#8, flags := 0x38#8, addrcfg := 0xCD#8 } }).map (·.result)
        = some 0xCC7F#64 := by
  decide

theorem test_qablen : (resultsOf .qablen (addressed 0xCD#8)).map (·.result) = some 18#64
    ∧ (resultsOf .qablen (addressed 0xCC#8)).map (·.result) = some 20#64 := by decide

theorem test_qmlen : (resultsOf .qmlen (sized 0xCC#8 0xFF#8 0)).map (·.result) = some 280#64
    ∧ (resultsOf .qmlen (sized 0x89#8 0x02#8 0)).map (·.result) = some 13#64 := by decide

/-- Section 2.1, rows 0x8D and 0xC0. -/
theorem test_ser :
    (nextOf (exec .ser (addressed 0x8D#8))).map (fun t => t.outbuf.map Prod.snd) = some
        [0x41#8, 0x8C#8, 0x42#8, 0x88#8, 0x77#8, 0x66#8, 0x55#8, 0x44#8, 0x33#8, 0x22#8, 0x11#8, 0xD1#8, 0xD0#8,
          0x00#8, 0xFF#8]
      ∧ (nextOf (exec .ser (addressed 0xC0#8))).map (fun t => t.outbuf.map Prod.snd) = some
        [0x01#8, 0xC0#8, 0x42#8, 0x00#8, 0xFF#8, 0xEE#8, 0xDD#8, 0xCC#8, 0xBB#8, 0xAA#8, 0x99#8, 0x51#8, 0x50#8] := by
  decide

/-- Section 2.5: 127 is accepted and 128 is not. -/
theorem test_ser_boundary :
    resultsOf .ser (sized 0x00#8 122#8 122) = some { cmd := 0x20#8, status := 0x10#8, result := 127#64, outlen := 125#8 }
      ∧ resultsOf .ser (sized 0x89#8 117#8 117) =
        some { cmd := 0x20#8, status := 0x01#8, result := 0#64, outlen := 0#8 } := by
  decide +kernel

/-! ## The step -/

/-- The fetched word is the one placed, and a reset clears the registers but not the fault record (R230). -/
theorem test_step_fetches :
    step (State.reset.withFetchWord 24 0x20015) = .next { State.reset with res := { ResultRegs.reset with cmd := 0x15#8 } }
      ∧ step { addressed 0x89#8 with host := [.rst], faults := { FaultRecord.empty with roWrite := true } }
        = .next { State.reset with faults := { FaultRecord.empty with roWrite := true } } :=
  ⟨rfl, rfl⟩

/-! ## Program text (30_encoding.md R80, R81; programs of 95_test_vectors.md) -/

/-- P1's lines and their words, and `NAME+k` (R80). -/
theorem test_assemble :
    (assembleLine "WR16 DADDR, 0x5678 ; low bytes first".toList).toOption.map encodeProgram
        = some [0x20878#18, 0x20956#18]
      ∧ (assembleLine "CMD SER".toList).toOption.map encodeProgram = some [0x20020#18]
      ∧ (assembleLine "WRBUF PAYLOAD, [0xDE, 0xAD]".toList).toOption.map encodeProgram
        = some [0x300DE#18, 0x301AD#18]
      ∧ (assembleLine "RD OUTBUF[124]".toList).toOption.map encodeProgram = some [0x1FC00#18]
      ∧ (assembleLine "RD PAYLOAD[3]+2".toList).toOption.map encodeProgram = some [0x10500#18]
      ∧ (assembleLine "RD DADDR+7".toList).toOption.map encodeProgram = some [0x00F00#18]
      ∧ (assembleLine "WR CMD, 0x00".toList).toOption.map encodeProgram = some [0x20000#18] := by
  decide

/-- Lines that are no program lines. -/
theorem test_assemble_refuses :
    assembleLine "WR FTSEL, 0x101".toList = .error .badLiteral ∧ assembleLine "CMD SERX".toList = .error .badCommand
      ∧ assembleLine "RD PAYLOAD[122]".toList = .error .badOffset
      ∧ assembleLine "RD64 0x1FA".toList = .error .pastWindow := by
  decide

/-! ## Witnesses: every statement's hypotheses are met, each clause at a boundary of its range -/

theorem witness_DecodeInvertsEncode :
    (Instr.wr 0x1FF#9 0xFF#8).wellFormed = true ∧ (Instr.cmdx 0x1F#8).wellFormed = true
      ∧ (Instr.rd 0x000#9).wellFormed = true ∧ Instr.ser.wellFormed = true := by
  decide

theorem witness_EncodeInvertsDecode :
    (0x3FFFF#18).getLsbD 17 = true ∧ ((0x1FF00#18).extractLsb' 0 8 = 0#8 ∧ (0x1FF00#18).getLsbD 17 = false) := by
  decide

theorem witness_DecoderPrecedence :
    (0x1FFFF#18).getLsbD 17 = false
      ∧ ((0x2001A#18).getLsbD 17 = true ∧ (0x2001A#18).extractLsb' 8 9 = 0#9 ∧ legalCommand 0x1A#8 = true)
      ∧ ((0x2001B#18).getLsbD 17 = true ∧ (0x2001B#18).extractLsb' 8 9 = 0#9 ∧ legalCommand 0x1B#8 = false)
      ∧ ((0x20100#18).getLsbD 17 = true ∧ (0x20100#18).extractLsb' 8 9 ≠ 0#9) := by
  decide

theorem witness_StepRunsTheDecodedTransaction :
    (hosted (.bus 0x20020#18)).host = .bus 0x20020#18 :: [] ∧ State.reset.host = [] := by
  decide

theorem witness_ResetEventRestoresTheRegisters :
    ({ addressed 0xCC#8 with host := [.rst, .bus 0x20020#18] } : State).host = .rst :: [.bus 0x20020#18] := by
  decide

/-- The draws after a reset: `PAYLOAD[121]` reads as one, whatever was written before it. -/
theorem witness_reset_draw :
    (nextOf (step { sized 0x00#8 122#8 122 with host := [.rst] })).bind (fun t => nextOf (exec (.rd 0x179#9) t))
      = some { State.reset with hostReads := [Config.draw 0], draws := 1 } :=
  rfl

theorem witness_ReadMultiByteRegisters :
    readOf (.rd (BitVec.ofNat 9 (0x008 + 7))) (addressed 0x00#8) = some 0x11#8
      ∧ readOf (.rd (BitVec.ofNat 9 (0x010 + 1))) (addressed 0x00#8) = some 0xD0#8
      ∧ readOf (.rd (BitVec.ofNat 9 (0x012 + 1))) (addressed 0x00#8) = some 0x50#8
      ∧ readOf (.rd (BitVec.ofNat 9 (0x018 + 7))) (addressed 0x00#8) = some 0x99#8
      ∧ readOf (.rd (BitVec.ofNat 9 (0x020 + 7)))
          { State.reset with res := { ResultRegs.reset with result := 0xAB00000000000000#64 } } = some 0xAB#8 := by
  decide

theorem witness_ReadPayloadByteOrDraw :
    (sized 0x00#8 0x00#8 122).payload.get? 121 = some 0x5A#8 ∧ (sized 0x00#8 0x00#8 121).pw 121 = false
      ∧ State.reset.pw 0 = false := by
  decide

theorem witness_ReadOutbufByteOrFault :
    (124 < outputAt124.res.outlen.toNat ∧ outputAt124.outbuf.get? 124 = some 0x65#8)
      ∧ outputAt124.res.outlen.toNat ≤ 125 ∧ outputAt124.res.outlen.toNat ≤ 126
      ∧ State.reset.res.outlen.toNat ≤ 0 := by
  decide

/-- The mapped offsets next to every hole, and the last readable OUTBUF byte. -/
theorem witness_ReadChangesNoHardwareState :
    [0x000, 0x013, 0x018, 0x028, 0x100, 0x179].all (fun n => !unmappedOffset n && decide (n < 0x180)) = true
      ∧ unmappedOffset 0x1FC = false ∧ 0x180 ≤ (0x1FC#9).toNat
      ∧ (0x1FC#9).toNat - 0x180 < outputAt124.res.outlen.toNat := by
  decide

theorem witness_ReadsAreIdempotent :
    exec (.rd 0x006#9) (addressed 0x89#8) = .next { addressed 0x89#8 with hostReads := [0x89#8] }
      ∧ ({ addressed 0x89#8 with hostReads := [0x89#8] } : State).draws = (addressed 0x89#8).draws :=
  ⟨rfl, rfl⟩

/-- Both ends of every forbidden range, and the offsets just outside. -/
theorem witness_ForbiddenOffsetsFault :
    [0x014, 0x017, 0x029, 0x0FF, 0x17A, 0x17F, 0x1FF].all (fun n => unmappedOffset n && !readOnlyOffset n) = true
      ∧ [0x001, 0x020, 0x027, 0x028, 0x180, 0x1FE].all (fun n => readOnlyOffset n && !unmappedOffset n) = true
      ∧ [0x000, 0x002, 0x013, 0x018, 0x01F, 0x100, 0x179].all
          (fun n => !readOnlyOffset n && !unmappedOffset n) = true := by
  decide

theorem witness_WriteMultiByteRegisters :
    (nextOf (exec (.wr (BitVec.ofNat 9 (0x008 + 7)) 0xAB#8) State.reset)).map (·.d.daddr) = some 0xAB00000000000000#64
      ∧ (nextOf (exec (.wr (BitVec.ofNat 9 (0x010 + 1)) 0xAB#8) State.reset)).map (·.d.dpan) = some 0xAB00#16
      ∧ (nextOf (exec (.wr (BitVec.ofNat 9 (0x012 + 1)) 0xAB#8) State.reset)).map (·.d.span) = some 0xAB00#16
      ∧ (nextOf (exec (.wr (BitVec.ofNat 9 (0x018 + 7)) 0xAB#8) State.reset)).map (·.d.saddr)
        = some 0xAB00000000000000#64 := by
  decide

theorem witness_WritePayloadByte :
    (nextOf (exec (.wr (BitVec.ofNat 9 (0x100 + 121)) 0xAB#8) State.reset)).map (·.payload) = some [(121, 0xAB#8)] := by
  decide

theorem witness_WriteChangesOneByte :
    [0x002#9, 0x013#9, 0x018#9, 0x01F#9, 0x100#9, 0x179#9].all (fun off =>
      decide (off ≠ 0#9) && !unmappedOffset off.toNat && !readOnlyOffset off.toNat) = true := by
  decide

theorem witness_ReadReturnsTheByteWritten :
    0x004#9 ≠ 0#9 ∧ exec (.wr 0x004#9 0xFF#8) State.reset =
        .next { State.reset with d := { DescRegs.reset with flags := 0x38#8 } }
      ∧ 0x179#9 ≠ 0#9 ∧ exec (.wr 0x179#9 0xFF#8) State.reset = .next { State.reset with payload := [(121, 0xFF#8)] } :=
  ⟨by decide, rfl, by decide, rfl⟩

/-- Both ends of every illegal range, and the legal bytes next to them. -/
theorem witness_IllegalCommandBytesReportBadcmd :
    [0x00#8, 0x0F#8, 0x1B#8, 0x1F#8, 0x21#8, 0x2F#8, 0x30#8, 0xFF#8].all (fun c => decide
        (c.toNat ≤ 0x0F ∨ (0x1B ≤ c.toNat ∧ c.toNat ≤ 0x1F) ∨ (0x21 ≤ c.toNat ∧ c.toNat ≤ 0x2F) ∨ 0x30 ≤ c.toNat))
        = true
      ∧ [0x10#8, 0x1A#8, 0x20#8].all (fun c => decide
        ¬(c.toNat ≤ 0x0F ∨ (0x1B ≤ c.toNat ∧ c.toNat ≤ 0x1F) ∨ (0x21 ≤ c.toNat ∧ c.toNat ≤ 0x2F) ∨ 0x30 ≤ c.toNat))
        = true := by
  decide

/-- Section 2.2, every row: invalid for each reason R176 lists. -/
theorem witness_InvalidDescriptorReportsBaddesc :
    [0x01#8, 0x81#8, 0xC1#8, 0x09#8, 0x0D#8, 0x04#8, 0x40#8, 0x05#8, 0x44#8].all
        (fun cfg => decide (desc (addressed cfg).d = none)) = true
      ∧ [5#8, 6#8, 7#8].all (fun k => decide (desc (typed k 0#8).d = none)) = true
      ∧ commandByte .qmlen = some 0x1A#8 ∧ Instr.qmlen ≠ .ser := by
  decide

/-- BADDESC before OVERSIZE (section 2.2), and each error code reached. -/
theorem witness_ErrorPriority :
    (resultsOf .ser (sized 0x81#8 200#8 0)).map (·.err) = some 2#3
      ∧ (resultsOf .ser (sized 0x00#8 123#8 0)).map (·.err) = some 1#3
      ∧ (resultsOf .ser (sized 0x00#8 0#8 0)).map (·.err) = some 0#3
      ∧ (resultsOf (.cmdx 0x21#8) (sized 0x81#8 200#8 0)).map (·.err) = some 3#3 := by
  decide

theorem witness_EveryCommandOverwritesTheOutcome :
    (resultsOf .qspan (addressed 0x89#8)).map (·.rvalid) = some false
      ∧ (resultsOf .qspan (addressed 0x88#8)).map (·.rvalid) = some true := by
  decide

theorem witness_CommandsWriteOnlyTheirResults :
    commandByte .qwpan = some 0x10#8 ∧ Instr.qwpan ≠ .ser ∧ commandByte .ser = some 0x20#8 := by
  decide

/-- The hypotheses of the twelve query statements: every valid row of section 2.1, KIND 4, and the invalid
descriptors of section 2.2. -/
theorem witness_queries :
    (blockLengthTable.map Prod.fst).all (fun cfg => (addressed cfg).d.valid) = true
      ∧ (typed 4#8 0xFF#8).d.valid = true
      ∧ [0x01#8, 0x81#8, 0xC1#8, 0x09#8, 0x0D#8, 0x04#8, 0x40#8, 0x05#8, 0x44#8].all
          (fun cfg => !(addressed cfg).d.valid) = true
      ∧ [5#8, 6#8, 7#8].all (fun k => !(typed k 0#8).d.valid) = true
      ∧ (addressed 0x89#8).d.shape = true := by
  decide

/-- The shortest and the longest MPDU of R146, and the two sides of the limit. -/
theorem witness_MpduLengthIsExact :
    (desc (sized 0x00#8 0#8 0).d).map mpduLength = some 5 ∧ (desc (sized 0xCC#8 255#8 0).d).map mpduLength = some 280
      ∧ (desc (sized 0xCC#8 102#8 0).d).map mpduLength = some 127
      ∧ (desc (sized 0xCC#8 103#8 0).d).map mpduLength = some 128 := by
  decide

/-- A payload with a written byte between two that are not: the draws are taken in order. -/
theorem witness_PayloadListIsPayloadOrDraws :
    ({ State.reset with payload := [(1, 0x77#8)], draws := 4 } : State).payloadList 3
      = ([Config.draw 4, 0x77#8, Config.draw 5], 6) :=
  rfl

theorem witness_SerWritesTheMpdu :
    desc (sized 0xCC#8 102#8 0).d ≠ none ∧ desc (sized 0xCC#8 103#8 0).d ≠ none
      ∧ desc (sized 0x81#8 0#8 0).d = none := by
  decide

theorem witness_PayloadLimits :
    (sized 0x00#8 123#8 0).d.valid = true ∧ 122 < (sized 0x00#8 123#8 0).d.plen.toNat
      ∧ (sized 0x00#8 122#8 0).d.valid = true := by
  decide

theorem witness_SecondSerGivesTheSameBytes :
    (sized 0x00#8 2#8 2).payloadReady ∧ (nextOf (exec .ser (sized 0x00#8 2#8 2))).isSome = true := by
  decide

/-- A frame with the largest payload. -/
theorem witness_RegistersCoverTheDataModel :
    (List.replicate 122 0x5A#8).length ≤ 122 ∧ (sized 0x00#8 2#8 2).frame ≠ none ∧ (addressed 0xCC#8).frame ≠ none := by
  decide

/-- Two descriptors that differ in FTRAW, in SPAN, and above bit 15 of both addresses. -/
theorem witness_UnusedFieldsHaveNoEffect :
    commandByte .ser = some 0x20#8
      ∧ (addressed 0x89#8).d.sameUsed { (addressed 0x89#8).d with
          ftraw := 0xFF#8, daddr := 0x7788#64, saddr := 0xFF00#64, span := 0#16 }
      ∧ (addressed 0x89#8).d ≠ { (addressed 0x89#8).d with
          ftraw := 0xFF#8, daddr := 0x7788#64, saddr := 0xFF00#64, span := 0#16 } := by
  decide

/-- A frame that is serialized, and one that is refused. -/
theorem witness_SerEmitsTheSourceFrame :
    let f (n : Nat) : Frame :=
      { frameType := .data, securityEnabled := false, framePending := false, acknowledgmentRequest := false,
        sequenceNumber := 0#8, payload := List.replicate n 0x5A#8,
        addresses := .localShape (.short 0x1234#16) ⟨.short 0x5678#16, 0xABCD#16⟩ }
    (f 116).payload.length ≤ 122 ∧ (serializeFrame (f 116)).map Prod.snd = some 127
      ∧ (f 122).payload.length ≤ 122 ∧ serializeFrame (f 122) = none := by
  decide

/-- A fault of each kind, at a boundary of its range. -/
theorem witness_FaultsAreRecordedAndNeverCleared :
    nextOf (step (hosted (.bus 0x01400#18))) = none ∧ (hosted (.bus 0x01400#18)).violates 0x01400#18 .unmapped
      ∧ nextOf (step (hosted (.bus 0x3FE00#18))) = none ∧ (hosted (.bus 0x3FE00#18)).violates 0x3FE00#18 .roWrite
      ∧ nextOf (step (hosted (.bus 0x18000#18))) = none ∧ (hosted (.bus 0x18000#18)).violates 0x18000#18 .outIndex
      ∧ nextOf (step (hosted (.bus 0x20020#18))) ≠ none
      ∧ ({ FaultRecord.empty with outIndex := true } : FaultRecord).has .outIndex = true := by
  decide

theorem witness_OnlyTheHostChangesSeq :
    (nextOf (step (hosted (.bus 0x205FF#18)))).map (·.d.seq) = some 0xFF#8
      ∧ (nextOf (step { addressed 0x89#8 with host := [.rst] })).map (·.d.seq) = some 0x00#8 := by
  decide

theorem witness_OnlySerChangesTheOutput :
    (nextOf (step (hosted (.bus 0x20020#18)))).map (·.res.outlen) = some 3#8
      ∧ (nextOf (step (hosted (.bus 0x20020#18)))).map (·.outbuf) = some [(0, 0#8), (1, 0#8), (2, 0#8)]
      ∧ (nextOf (step { outputAt124 with host := [.rst] })).map (·.res.outlen) = some 0#8 := by
  decide

theorem witness_OnlyCommandsChangeTheResults :
    (nextOf (step (hosted (.bus 0x200FF#18)))).map (·.res.status) = some 0x03#8
      ∧ (nextOf (step { outputAt124 with host := [.rst] })).map (·.res) = some ResultRegs.reset := by
  decide

/-- A state that meets the invariant and steps, and one that meets it and faults. -/
theorem witness_EveryStepKeepsTheInvariant :
    (hosted (.bus 0x20020#18)).Inv ∧ (nextOf (step (hosted (.bus 0x20020#18)))).isSome = true
      ∧ (hosted (.bus 0x18000#18)).Inv ∧ nextOf (step (hosted (.bus 0x18000#18))) = none := by
  decide

end Sys2Proof.Tests
end

/-! # The encoding family (30_encoding.md)

The fields of a bus word, which byte is a command, and what each row of the opcode table accepts; then the
decoding order (R61), the illegal command bytes (R64, R175) and the encoding of program lines (R82). -/

namespace Sys2Proof

open Sys2Proof.Machine

/-! ## The fields of a bus word (R60) -/

/-- A bus word is its three fields. -/
theorem BusWord.eq_iff (v w : BusWord) : v = w ↔ v.isWrite = w.isWrite ∧ v.off = w.off ∧ v.data = w.data := by
  constructor
  · rintro rfl
    exact ⟨rfl, rfl, rfl⟩
  · rintro ⟨hW, hO, hD⟩
    apply BitVec.eq_of_getLsbD_eq
    intro i hi
    have hi' : i < 8 ∨ (8 ≤ i ∧ i - 8 < 9) ∨ i = 17 := by omega
    rcases hi' with h | ⟨h, h9⟩ | rfl
    · simpa [BusWord.data, h] using congrArg (·.getLsbD i) hD
    · simpa [BusWord.off, h9, Nat.add_sub_cancel' h] using congrArg (·.getLsbD (i - 8)) hO
    · exact hW

theorem BusWord.isWrite_and (v w : BusWord) : BusWord.isWrite (v &&& w) = (v.isWrite && w.isWrite) :=
  BitVec.getLsbD_and

theorem BusWord.off_and (v w : BusWord) : BusWord.off (v &&& w) = v.off &&& w.off :=
  BitVec.extractLsb'_and

theorem BusWord.data_and (v w : BusWord) : BusWord.data (v &&& w) = v.data &&& w.data :=
  BitVec.extractLsb'_and

theorem getElem_busWrite (off : Offset) (d : Byte) (i : Nat) (hi : i < 18) :
    (busWrite off d)[i] = (decide (i = 17) || (decide (8 ≤ i) && off.getLsbD (i - 8)) || d.getLsbD i) := by
  rw [← BitVec.getLsbD_eq_getElem]
  simp only [busWrite, BitVec.getLsbD_or, BitVec.getLsbD_shiftLeft, BitVec.getLsbD_setWidth, BitVec.getLsbD_one, hi]
  grind

@[simp] theorem isWrite_busWrite (off : Offset) (d : Byte) : (busWrite off d).isWrite = true := by
  simp [BusWord.isWrite, getElem_busWrite]

@[simp] theorem off_busWrite (off : Offset) (d : Byte) : (busWrite off d).off = off := by
  apply BitVec.eq_of_getLsbD_eq
  intro i hi
  have h17 : 8 + i ≠ 17 := by omega
  have h18 : 8 + i < 18 := by omega
  simp [BusWord.off, getElem_busWrite, hi, h17, h18]

@[simp] theorem data_busWrite (off : Offset) (d : Byte) : (busWrite off d).data = d := by
  apply BitVec.eq_of_getLsbD_eq
  intro i hi
  have h17 : i ≠ 17 := by omega
  have h18 : i < 18 := by omega
  have h8 : ¬ 8 ≤ i := by omega
  simp [BusWord.data, getElem_busWrite, hi, h17, h18, h8]

/-! ## The command bytes (R63, R64) -/

/-- The legal bytes as a range: 0x10 to 0x1A, and 0x20. -/
theorem legalCommand_iff (c : Byte) :
    legalCommand c = true ↔ (0x10 ≤ c.toNat ∧ c.toNat ≤ 0x1A) ∨ c.toNat = 0x20 := by
  have hc := c.isLt
  simp only [legalCommand, Bool.or_eq_true, Bool.and_eq_true, beq_iff_eq, decide_eq_true_eq,
    BitVec.le_def, ← BitVec.toNat_inj, BitVec.extractLsb'_toNat, Nat.shiftRight_eq_div_pow,
    BitVec.toNat_ofNat]
  omega

/-- The legal bytes are the keys of the opcode map. -/
theorem legalCommand_iff_exists_mem (c : Byte) : legalCommand c = true ↔ ∃ i, (c, i) ∈ opcodeMap := by
  rw [legalCommand_iff]
  simp only [opcodeMap, List.mem_cons, Prod.mk.injEq, ← BitVec.toNat_inj, BitVec.toNat_ofNat, Nat.reducePow,
    Nat.reduceMod, List.not_mem_nil, or_false, exists_or, existsAndEq, and_true]
  omega

theorem decodeCommand_of_mem {c : Byte} {i : Instr} (h : (c, i) ∈ opcodeMap) : decodeCommand c = i :=
  have key : ∀ p ∈ opcodeMap, decodeCommand p.1 = p.2 := by decide
  key _ h

theorem commandByte_of_mem {c : Byte} {i : Instr} (h : (c, i) ∈ opcodeMap) : commandByte i = some c :=
  have key : ∀ p ∈ opcodeMap, commandByte p.2 = some p.1 := by decide
  key _ h

theorem decodeCommand_of_illegal {c : Byte} (h : legalCommand c = false) : decodeCommand c = .cmdx c := by
  have hnone : opcodeMap.lookup c = none := by
    rw [List.lookup_eq_none_iff]
    intro p hp
    simp only [bne_iff_ne, ne_eq]
    rintro rfl
    exact absurd ((legalCommand_iff_exists_mem _).2 ⟨_, hp⟩) (by simp [h])
  simp [decodeCommand, hnone]

/-! ## The decoding order (R61) -/

theorem decode_of_read {w : BusWord} (hW : w.isWrite = false) : decode w = .rd w.off := by
  simp [decode, hW]

theorem decode_of_command {w : BusWord} (hW : w.isWrite = true) (hO : w.off = 0#9) :
    decode w = decodeCommand w.data := by
  simp [decode, hW, hO]

theorem decode_of_write {w : BusWord} (hW : w.isWrite = true) (hO : w.off ≠ 0#9) :
    decode w = .wr w.off w.data := by
  simp [decode, hW, hO]

/-! ## The opcode table (R61) -/

/-- A row accepts a word when it accepts each of the three fields. -/
theorem OpcodeRow.accepts_iff (r : OpcodeRow) (w : BusWord) :
    r.accepts w = true ↔ (w.isWrite && r.mask.isWrite) = r.pattern.isWrite
      ∧ w.off &&& r.mask.off = r.pattern.off ∧ w.data &&& r.mask.data = r.pattern.data := by
  rw [OpcodeRow.accepts, beq_iff_eq, BusWord.eq_iff, BusWord.isWrite_and, BusWord.off_and, BusWord.data_and]

/-! `BitVec.and_allOnes` in the normal form of the masks' fields. -/

@[simp] theorem Offset.and_full (v : Offset) : v &&& 0x1FF#9 = v := BitVec.and_allOnes

@[simp] theorem Byte.and_full (v : Byte) : v &&& 0xFF#8 = v := BitVec.and_allOnes

/-- The row of RD: W is 0. -/
def rdRow : OpcodeRow := ⟨"RD", 0x00000#18, 0x20000#18⟩

/-- The row of a command: the whole word is fixed. -/
def commandRow (p : Byte × Instr) : OpcodeRow := ⟨p.2.mnemonic, busWrite 0#9 p.1, 0x3FFFF#18⟩

/-- The row of CMDX: W is 1 and OFF is 0. -/
def cmdxRow : OpcodeRow := ⟨"CMDX", 0x20000#18, 0x3FF00#18⟩

/-- The row of WR: W is 1. -/
def wrRow : OpcodeRow := ⟨"WR", 0x20000#18, 0x20000#18⟩

/-- The table is these rows, one command row for each entry of the opcode map. -/
theorem opcodeRows_eq : opcodeRows = rdRow :: opcodeMap.map commandRow ++ [cmdxRow, wrRow] := by
  decide

theorem mem_opcodeRows (r : OpcodeRow) :
    r ∈ opcodeRows ↔ r = rdRow ∨ (∃ c i, (c, i) ∈ opcodeMap ∧ r = commandRow (c, i)) ∨ r = cmdxRow ∨ r = wrRow := by
  simp [opcodeRows_eq, eq_comm (b := r)]

theorem rdRow_accepts (w : BusWord) : rdRow.accepts w = true ↔ w.isWrite = false := by
  have hm : rdRow.mask.isWrite = true ∧ rdRow.mask.off = 0#9 ∧ rdRow.mask.data = 0#8 := by decide
  have hp : rdRow.pattern.isWrite = false ∧ rdRow.pattern.off = 0#9 ∧ rdRow.pattern.data = 0#8 := by decide
  simp [OpcodeRow.accepts_iff, hm, hp]

theorem commandRow_accepts (c : Byte) (i : Instr) (w : BusWord) :
    (commandRow (c, i)).accepts w = true ↔ w.isWrite = true ∧ w.off = 0#9 ∧ w.data = c := by
  have hm : BusWord.isWrite 0x3FFFF#18 = true ∧ BusWord.off 0x3FFFF#18 = 0x1FF#9
      ∧ BusWord.data 0x3FFFF#18 = 0xFF#8 := by decide
  simp [OpcodeRow.accepts_iff, commandRow, hm]

theorem cmdxRow_accepts (w : BusWord) : cmdxRow.accepts w = true ↔ w.isWrite = true ∧ w.off = 0#9 := by
  have hm : cmdxRow.mask.isWrite = true ∧ cmdxRow.mask.off = 0x1FF#9 ∧ cmdxRow.mask.data = 0#8 := by decide
  have hp : cmdxRow.pattern.isWrite = true ∧ cmdxRow.pattern.off = 0#9 ∧ cmdxRow.pattern.data = 0#8 := by decide
  simp [OpcodeRow.accepts_iff, hm, hp]

theorem wrRow_accepts (w : BusWord) : wrRow.accepts w = true ↔ w.isWrite = true := by
  have hm : wrRow.mask.isWrite = true ∧ wrRow.mask.off = 0#9 ∧ wrRow.mask.data = 0#8 := by decide
  have hp : wrRow.pattern.isWrite = true ∧ wrRow.pattern.off = 0#9 ∧ wrRow.pattern.data = 0#8 := by decide
  simp [OpcodeRow.accepts_iff, hm, hp]

/-- Which rows accept a word, by its fields; of the command rows, only that of its own DATA byte. -/
theorem accepting_rows {w : BusWord} {r : OpcodeRow} (hr : r ∈ opcodeRows) (ha : r.accepts w = true) :
    (r = rdRow ∧ w.isWrite = false) ∨ (r = wrRow ∧ w.isWrite = true)
      ∨ (r = cmdxRow ∧ w.isWrite = true ∧ w.off = 0#9)
      ∨ (r = commandRow (w.data, decodeCommand w.data) ∧ w.isWrite = true ∧ w.off = 0#9
        ∧ legalCommand w.data = true) := by
  rcases (mem_opcodeRows r).1 hr with rfl | ⟨c, i, hci, rfl⟩ | rfl | rfl
  · exact .inl ⟨rfl, (rdRow_accepts w).1 ha⟩
  · obtain ⟨hW, hO, rfl⟩ := (commandRow_accepts c i w).1 ha
    rw [decodeCommand_of_mem hci]
    exact .inr (.inr (.inr ⟨rfl, hW, hO, (legalCommand_iff_exists_mem _).2 ⟨i, hci⟩⟩))
  · exact .inr (.inr (.inl ⟨rfl, (cmdxRow_accepts w).1 ha⟩))
  · exact .inr (.inl ⟨rfl, (wrRow_accepts w).1 ha⟩)

theorem bestRow_cons (w : BusWord) (r : OpcodeRow) (rows : List OpcodeRow) :
    bestRow w (r :: rows) = (bestRow w rows).elim (if r.accepts w then some r else none)
      fun b => if r.accepts w && decide (b.weight < r.weight) then some r else some b := by
  rw [bestRow]
  cases bestRow w rows <;> rfl

theorem bestRow_accepts {w : BusWord} {rows : List OpcodeRow} {b : OpcodeRow} (h : bestRow w rows = some b) :
    b ∈ rows ∧ b.accepts w = true := by
  induction rows generalizing b with
  | nil => simp [bestRow] at h
  | cons r rows ih =>
    rw [bestRow_cons] at h
    cases hb : bestRow w rows with
    | none =>
      obtain ⟨hr, rfl⟩ : r.accepts w = true ∧ r = b := by simpa [hb] using h
      exact ⟨by simp, hr⟩
    | some b' =>
      obtain ⟨hmem, hacc⟩ := ih hb
      rw [hb] at h
      dsimp only [Option.elim] at h
      split at h
      · next hr =>
        cases h
        exact ⟨by simp, (Bool.and_eq_true_iff.1 hr).1⟩
      · cases h
        exact ⟨by simp [hmem], hacc⟩

/-- An accepting row that outweighs every other accepting row of the list is the one chosen. -/
theorem bestRow_eq_some {w : BusWord} {rows : List OpcodeRow} {b : OpcodeRow} (hb : b ∈ rows)
    (hacc : b.accepts w = true) (hmax : ∀ r ∈ rows, r.accepts w = true → r = b ∨ r.weight < b.weight) :
    bestRow w rows = some b := by
  induction rows with
  | nil => simp at hb
  | cons r rows ih =>
    rw [bestRow_cons]
    rcases List.mem_cons.1 hb with rfl | hb'
    · cases h : bestRow w rows with
      | none => simp [hacc]
      | some b' =>
        obtain ⟨hmem, hacc'⟩ := bestRow_accepts h
        rcases hmax b' (by simp [hmem]) hacc' with rfl | hlt
        · simp
        · simp [hacc, hlt]
    · rw [ih hb' fun x hx => hmax x (by simp [hx])]
      dsimp only [Option.elim]
      have heq : r.accepts w = true → b.weight < r.weight → r = b := fun hr hlt =>
        (hmax r (by simp) hr).resolve_right (by omega)
      simpa using heq

@[simp] theorem weight_commandRow (p : Byte × Instr) : (commandRow p).weight = 18 := by
  change (List.range 18).countP (fun k => (0x3FFFF#18).getLsbD k) = 18
  decide

@[simp] theorem weight_cmdxRow : cmdxRow.weight = 10 := by decide

@[simp] theorem weight_wrRow : wrRow.weight = 1 := by decide

theorem bestRow_of_read {w : BusWord} (hW : w.isWrite = false) : bestRow w opcodeRows = some rdRow := by
  refine bestRow_eq_some (by simp [mem_opcodeRows]) ((rdRow_accepts w).2 hW) fun r hr ha => ?_
  rcases accepting_rows hr ha with ⟨rfl, -⟩ | ⟨-, h⟩ | ⟨-, h, -⟩ | ⟨-, h, -⟩
  · exact .inl rfl
  all_goals simp [hW] at h

theorem bestRow_of_write {w : BusWord} (hW : w.isWrite = true) (hO : w.off ≠ 0#9) :
    bestRow w opcodeRows = some wrRow := by
  refine bestRow_eq_some (by simp [mem_opcodeRows]) ((wrRow_accepts w).2 hW) fun r hr ha => ?_
  rcases accepting_rows hr ha with ⟨-, h⟩ | ⟨rfl, -⟩ | ⟨-, -, h⟩ | ⟨-, -, h, -⟩
  · simp [hW] at h
  · exact .inl rfl
  · exact absurd h hO
  · exact absurd h hO

theorem bestRow_of_illegal {w : BusWord} (hW : w.isWrite = true) (hO : w.off = 0#9)
    (hL : legalCommand w.data = false) : bestRow w opcodeRows = some cmdxRow := by
  refine bestRow_eq_some (by simp [mem_opcodeRows]) ((cmdxRow_accepts w).2 ⟨hW, hO⟩) fun r hr ha => ?_
  rcases accepting_rows hr ha with ⟨-, h⟩ | ⟨rfl, -⟩ | ⟨rfl, -⟩ | ⟨-, -, -, h⟩
  · simp [hW] at h
  · exact .inr (by simp)
  · exact .inl rfl
  · simp [hL] at h

theorem bestRow_of_legal {w : BusWord} (hW : w.isWrite = true) (hO : w.off = 0#9)
    (hL : legalCommand w.data = true) :
    bestRow w opcodeRows = some (commandRow (w.data, decodeCommand w.data)) := by
  obtain ⟨i, hi⟩ := (legalCommand_iff_exists_mem _).1 hL
  rw [decodeCommand_of_mem hi]
  refine bestRow_eq_some ((mem_opcodeRows _).2 (.inr (.inl ⟨_, i, hi, rfl⟩)))
    ((commandRow_accepts _ _ w).2 ⟨hW, hO, rfl⟩) fun r hr ha => ?_
  rcases accepting_rows hr ha with ⟨-, h⟩ | ⟨rfl, -⟩ | ⟨rfl, -⟩ | ⟨rfl, -⟩
  · simp [hW] at h
  · exact .inr (by simp)
  · exact .inr (by simp)
  · exact .inl (by rw [decodeCommand_of_mem hi])

/-- A decoder built from the opcode table takes the row of the decoded transaction (R61). -/
theorem bestRow_mnemonic (w : BusWord) :
    (bestRow w opcodeRows).map OpcodeRow.mnemonic = some (decode w).mnemonic := by
  cases hW : w.isWrite with
  | false =>
    rw [bestRow_of_read hW, decode_of_read hW]
    rfl
  | true =>
    by_cases hO : w.off = 0#9
    · rw [decode_of_command hW hO]
      cases hL : legalCommand w.data with
      | true => rw [bestRow_of_legal hW hO hL]; rfl
      | false => rw [bestRow_of_illegal hW hO hL, decodeCommand_of_illegal hL]; rfl
    · rw [bestRow_of_write hW hO, decode_of_write hW hO]
      rfl

/-- Settles O3: the decoder's branches one by one, and the table's row by `bestRow_mnemonic`. -/
theorem decoderPrecedence : Obligations.DecoderPrecedence := by
  intro w
  refine ⟨decode_of_read, fun hW hO hL => ?_, fun hW hO hL => ?_, decode_of_write, bestRow_mnemonic w⟩
  · obtain ⟨i, hi⟩ := (legalCommand_iff_exists_mem _).1 hL
    rw [decode_of_command hW hO, BusWord.data, decodeCommand_of_mem hi, commandByte_of_mem hi]
  · rw [decode_of_command hW hO]
    exact decodeCommand_of_illegal hL

/-! ## The illegal command bytes (R64, R175) -/

/-- An illegal byte is stored and reports BADCMD; the descriptor is not looked at (R175). -/
theorem exec_cmdx (c : Byte) (s : State) : exec (.cmdx c) s =
    .next { s with res := { s.res with cmd := c, status := 0x03#8, result := 0#64 } } := by
  change Host.Outcome.next ((s.storeCmd c).fail .badcmd) = _
  rw [State.fail_spec]
  rfl

/-- 11 query bytes and the one of SER are legal, of 256. -/
theorem count_illegal : ((List.range 256).countP fun n => !legalCommand (BitVec.ofNat 8 n)) = 244 := by
  decide +kernel

/-- Settles O23: the illegal ranges are what `legalCommand_iff` leaves out. -/
theorem illegalCommandBytesReportBadcmd : Obligations.IllegalCommandBytesReportBadcmd := by
  refine ⟨count_illegal, fun s c hc => ⟨?_, exec_cmdx c s⟩⟩
  have hL : legalCommand c = false := by
    rw [← Bool.not_eq_true, legalCommand_iff]
    omega
  rw [decode_of_command (isWrite_busWrite _ _) (off_busWrite _ _), data_busWrite]
  exact decodeCommand_of_illegal hL

/-! ## How a program line encodes (R82) -/

/-- Settles O4: both formulas are the encoder's own, and the three words are evaluated. -/
theorem programLinesEncode : Obligations.ProgramLinesEncode :=
  ⟨fun _ => rfl, fun _ _ => rfl, by decide, by decide, by decide⟩

end Sys2Proof

/-! # The address model family (40_address_model.md)

Which descriptors are valid (R72 to R74, R176), what the accessors of the address model give on a valid one, and
what a query leaves in the state; then the address queries one by one. -/

namespace Sys2Proof.Machine

/-! ## Valid descriptors (R176) -/

theorem DescRegs.valid_iff (d : DescRegs) :
    d.valid = true ↔ d.kind.toNat < 5 ∧ d.dmode ≠ 0b01#2 ∧ d.smode ≠ 0b01#2
      ∧ (d.shape = true → d.dmode ≠ 0b00#2 ∧ d.smode ≠ 0b00#2) := by
  simp only [DescRegs.valid, Bool.and_eq_true, Bool.or_eq_true, Bool.not_eq_true', decide_eq_true_eq, bne_iff_ne,
    and_assoc]
  cases d.shape <;> simp

theorem isSome_decodeFt (k : BitVec 3) (raw : Byte) : (decodeFt k raw).isSome = true ↔ k.toNat < 5 := by
  rcases decodeFt_cases k raw with ⟨hnone, rfl | rfl | rfl⟩ | ⟨t, hsome, hk, -⟩
  · simp [hnone]
  · simp [hnone]
  · simp [hnone]
  · simp [hsome, hk]

theorem isSome_decodeAddresses (d : DescRegs) :
    (decodeAddresses d).isSome = true ↔ d.dmode ≠ 0b01#2 ∧ d.smode ≠ 0b01#2
      ∧ (d.shape = true → d.dmode ≠ 0b00#2 ∧ d.smode ≠ 0b00#2) := by
  rcases decodeAddresses_cases d with ⟨hnone, hbad⟩ | ⟨a, hsome, hd, hs, hsh, -⟩
  · simp only [hnone, Option.isSome_none, Bool.false_eq_true, false_iff]
    tauto
  · simp only [hsome, Option.isSome_some, true_iff]
    exact ⟨hd, hs, hsh⟩

/-- The conditions R176 lists are those under which the registers decode (R70 to R74). -/
theorem isSome_desc (d : DescRegs) : (desc d).isSome = d.valid := by
  rw [Bool.eq_iff_iff, DescRegs.valid_iff, ← isSome_decodeFt d.kind d.ftraw, ← isSome_decodeAddresses, desc_eq]
  cases decodeFt d.kind d.ftraw <;> cases decodeAddresses d <;> simp

/-! ## The accessors on a decoded descriptor (R105 to R109) -/

theorem decodeAddresses_of_desc {d : DescRegs} {fd : FrameDesc} (h : desc d = some fd) :
    decodeAddresses d = some fd.addresses := by
  rw [desc_eq] at h
  obtain ⟨ft, -, h⟩ := Option.bind_eq_some_iff.1 h
  obtain ⟨ad, had, rfl⟩ := Option.map_eq_some_iff.1 h
  exact had

/-- The address that a mode field other than 0b01 selects from its register (R72). -/
def selectAddress (mode : BitVec 2) (raw : BitVec 64) : Option Address :=
  if mode = 0b00#2 then none
  else some (if mode = 0b10#2 then .short (raw.extractLsb' 0 16) else .long raw)

theorem accessors_of_desc {d : DescRegs} {fd : FrameDesc} (h : desc d = some fd) :
    isWithinPan fd.addresses = d.shape
      ∧ destinationAddress fd.addresses = selectAddress d.dmode d.daddr
      ∧ sourceAddress fd.addresses = selectAddress d.smode d.saddr
      ∧ destinationPanId fd.addresses = (if d.dmode = 0b00#2 then none else some d.dpan)
      ∧ sourcePanId fd.addresses = (if d.shape = true ∨ d.smode = 0b00#2 then none else some d.span) := by
  have had := decodeAddresses_of_desc h
  rcases decodeAddresses_cases d with ⟨hnone, -⟩ | ⟨a, ha, -, -, -, haccessors⟩
  · simp [hnone] at had
  · obtain rfl : a = fd.addresses := Option.some.inj (ha.symm.trans had)
    exact haccessors

/-! ## What a query leaves (R172 to R174, R176) -/

@[simp] theorem State.complete_storeCmd {w : Nat} (s : State) (c : Byte) (v : BitVec w) :
    (s.storeCmd c).complete v = s.afterCommand c 0x10#8 (v.setWidth 64) := rfl

@[simp] theorem State.completeNone_storeCmd (s : State) (c : Byte) :
    (s.storeCmd c).completeNone = s.afterCommand c 0x00#8 0#64 := rfl

@[simp] theorem State.completeOption_some {w : Nat} (s : State) (v : BitVec w) :
    s.completeOption (some v) = s.complete v := rfl

@[simp] theorem State.completeOption_none {w : Nat} (s : State) :
    s.completeOption (none : Option (BitVec w)) = s.completeNone := rfl

/-- How a query of an optional address completes: the Short, the Long and the None case of R124 and R126. -/
theorem State.completeOption_selectAddress (s : State) (c : Byte) (mode : BitVec 2) (raw : BitVec 64) :
    (s.storeCmd c).completeOption ((selectAddress mode raw).map addressValue) =
      if mode = 0b00#2 then s.afterCommand c 0x00#8 0#64
      else if mode = 0b10#2 then s.afterCommand c 0x10#8 ((raw.extractLsb' 0 16).setWidth 64)
      else s.afterCommand c 0x10#8 raw := by
  unfold selectAddress
  split
  · simp
  · split <;> simp [addressValue]

theorem State.badDesc_storeCmd {c : Byte} (hc : c ≠ 0x20#8) (s : State) :
    (s.storeCmd c).badDesc c = s.afterCommand c 0x02#8 0#64 := by
  rw [State.badDesc_spec, if_neg hc]
  rfl

/-- A command other than SER on a valid and on an invalid descriptor, given what its rule makes of the decoded
one. -/
theorem runCommand_query {c : Byte} {rule : FrameDesc → State → State} {s t : State} (hc : c ≠ 0x20#8)
    (hrule : ∀ fd, desc s.d = some fd → rule fd (s.storeCmd c) = t) :
    (s.d.valid = true → runCommand c rule s = .next t)
      ∧ (s.d.valid = false → runCommand c rule s = .next (s.afterCommand c 0x02#8 0#64)) := by
  rw [← isSome_desc]
  rcases runCommand_cases c rule s with ⟨hnone, hrun⟩ | ⟨fd, hsome, hrun⟩
  · simp [hnone, hrun, State.badDesc_storeCmd hc]
  · simp [hsome, hrun, hrule fd hsome]

end Sys2Proof.Machine

namespace Sys2Proof

open Sys2Proof.Machine

/-! ## The address queries (R120, R123 to R126) -/

/-- Settles O28: the shape bit is what `isWithinPan` gives of the decoded addresses. -/
theorem qwpanReportsTheShape : Obligations.QwpanReportsTheShape := by
  refine ⟨by decide, fun s => ?_⟩
  rw [exec_qwpan]
  refine runCommand_query (by decide) fun fd h => ?_
  obtain ⟨hshape, -⟩ := accessors_of_desc h
  rw [hshape, State.complete_storeCmd]
  cases s.d.shape <;> rfl

/-- Settles O31, by the cases of the destination PAN ID. -/
theorem qdpanReportsTheDestinationPan : Obligations.QdpanReportsTheDestinationPan := by
  refine ⟨by decide, fun s => ?_⟩
  rw [exec_qdpan]
  refine runCommand_query (by decide) fun fd h => ?_
  obtain ⟨-, -, -, hdpan, -⟩ := accessors_of_desc h
  rw [hdpan]
  split <;> simp

/-- Settles O32: the destination address is the one DMODE selects from DADDR. -/
theorem qdaddrReportsTheDestinationAddress : Obligations.QdaddrReportsTheDestinationAddress := by
  refine ⟨by decide, fun s => ?_⟩
  rw [exec_qdaddr]
  refine runCommand_query (by decide) fun fd h => ?_
  obtain ⟨-, hdest, -⟩ := accessors_of_desc h
  rw [hdest]
  exact s.completeOption_selectAddress 0x14#8 s.d.dmode s.d.daddr

/-- Settles O33, by the cases of the source PAN ID, which the Local shape never has. -/
theorem qspanReportsTheSourcePan : Obligations.QspanReportsTheSourcePan := by
  refine ⟨by decide, fun s => ?_⟩
  rw [exec_qspan]
  refine runCommand_query (by decide) fun fd h => ?_
  obtain ⟨-, -, -, -, hspan⟩ := accessors_of_desc h
  rw [hspan]
  split <;> simp

/-- Settles O34: the source address is the one SMODE selects from SADDR. -/
theorem qsaddrReportsTheSourceAddress : Obligations.QsaddrReportsTheSourceAddress := by
  refine ⟨by decide, fun s => ?_⟩
  rw [exec_qsaddr]
  refine runCommand_query (by decide) fun fd h => ?_
  obtain ⟨-, -, hsource, -⟩ := accessors_of_desc h
  rw [hsource]
  exact s.completeOption_selectAddress 0x16#8 s.d.smode s.d.saddr

end Sys2Proof

/-! # The frame codec family (41_frame_codec.md)

The frame control bytes bit by bit (R136 to R138), the bytes of an address field (R141), the length of the MPDU
(R146), and SER on a valid descriptor (R147, R160). -/

namespace Sys2Proof.Machine

/-! ## The frame control bytes (R136 to R138) -/

theorem getElem_flagBit (b : Bool) (n i : Nat) (hi : i < 8) : (flagBit b n)[i] = (decide (i = n) && b) := by
  simp only [flagBit, BitVec.getElem_shiftLeft]
  grind

/-- Bit `i` of byte 0: the type code below bit 3, the three flags and the shape above it. -/
theorem getElem_fcf0 (fd : FrameDesc) (i : Nat) (hi : i < 8) :
    (fcf0 fd)[i] = ((ftCode fd.frameType).getLsbD i || (decide (i = 3) && fd.securityEnabled)
      || (decide (i = 4) && fd.framePending) || (decide (i = 5) && fd.acknowledgmentRequest)
      || (decide (i = 6) && isWithinPan fd.addresses)) := by
  simp only [fcf0, BitVec.getElem_or, getElem_flagBit, BitVec.getElem_setWidth]

/-- Bit `i` of byte 1: the destination mode from bit 2, the source mode from bit 6. -/
theorem getElem_fcf1 (fd : FrameDesc) (i : Nat) (hi : i < 8) :
    (fcf1 fd)[i] = ((!decide (i < 2) && (destinationMode fd.addresses).getLsbD (i - 2))
      || (!decide (i < 6) && (sourceMode fd.addresses).getLsbD (i - 6))) := by
  simp [fcf1]

/-! ## The bytes of an address field (R141) -/

theorem le_two_bytes {w : Nat} (v : BitVec w) : le v 2 = [v.extractLsb' 0 8, v.extractLsb' 8 8] := rfl

theorem le_eight_bytes {w : Nat} (v : BitVec w) : le v 8 =
    [v.extractLsb' 0 8, v.extractLsb' 8 8, v.extractLsb' 16 8, v.extractLsb' 24 8,
      v.extractLsb' 32 8, v.extractLsb' 40 8, v.extractLsb' 48 8, v.extractLsb' 56 8] := rfl

/-! ## The length of the MPDU (R146) -/

theorem payloadLength_of_desc {d : DescRegs} {fd : FrameDesc} (h : desc d = some fd) :
    fd.payloadLength = d.plen.toNat := by
  rw [desc_eq] at h
  obtain ⟨ft, -, h⟩ := Option.bind_eq_some_iff.1 h
  obtain ⟨ad, -, rfl⟩ := Option.map_eq_some_iff.1 h
  rfl

theorem mpduLength_of_desc {d : DescRegs} {fd : FrameDesc} (h : desc d = some fd) :
    mpduLength fd = 2 + 1 + addressBlockLength fd.addresses + d.plen.toNat + 2 := by
  rw [← payloadLength_of_desc h]
  rfl

/-! ## SER on a valid descriptor (R160) -/

/-- A command on a valid descriptor runs its rule on the decoded one (42_host_bus.md R173). -/
theorem runCommand_of_desc {s : State} {fd : FrameDesc} (h : desc s.d = some fd) (c : Byte)
    (rule : FrameDesc → State → State) : runCommand c rule s = .next (rule fd (s.storeCmd c)) := by
  simp only [runCommand, h]

theorem exec_ser_oversize {s : State} {fd : FrameDesc} (h : desc s.d = some fd) (hlen : 127 < mpduLength fd) :
    exec .ser s = .next { s with
      res := { cmd := 0x20#8, status := 0x01#8, result := 0#64, outlen := 0x00#8 } } := by
  rw [exec_ser, runCommand_of_desc h]
  rcases finishSer_cases (s.storeCmd 0x20#8) fd with ⟨-, hser⟩ | ⟨hfits, -⟩
  · rw [hser]
    rfl
  · omega

/-- What SER leaves where the MPDU fits: the bytes in OUTBUF, their number in OUTLEN, the length in RESULT. -/
theorem exec_ser_fits {s : State} {fd : FrameDesc} (h : desc s.d = some fd) (hlen : mpduLength fd ≤ 127) :
    ∃ bytes, bytes = headerBytes fd ++ addressBlock fd.addresses ++ (s.payloadList fd.payloadLength).1
      ∧ bytes.length + 2 = mpduLength fd
      ∧ exec .ser s = .next { s with
          outbuf := s.outbuf.setFrom 0 bytes
          draws := (s.payloadList fd.payloadLength).2
          res := { cmd := 0x20#8, status := 0x10#8, result := BitVec.ofNat 64 (mpduLength fd),
                   outlen := BitVec.ofNat 8 bytes.length } } := by
  rw [exec_ser, runCommand_of_desc h]
  rcases finishSer_cases (s.storeCmd 0x20#8) fd with ⟨hover, -⟩ | ⟨-, bytes, hbytes, hcount, hser⟩
  · omega
  · exact ⟨bytes, hbytes, hcount, congrArg Host.Outcome.next hser⟩

end Sys2Proof.Machine

namespace Sys2Proof

open Sys2Proof.Machine

/-- Settles O39: every bit by `getElem_fcf0` and `getElem_fcf1`; a field of several bits is compared bit by bit. -/
theorem frameControlBits : Obligations.FrameControlBits := by
  intro fd
  refine ⟨?type, ?sec, ?pend, ?ar, ?shape, ?bit7, ?low, ?dest, ?middle, ?src⟩
  case type =>
    ext i hi
    interval_cases i <;> simp [getElem_fcf0]
  case low | dest | middle | src =>
    ext i hi
    interval_cases i <;> simp [getElem_fcf1]
  all_goals simp [getElem_fcf0]

/-- Settles O41: the order is the definition's own, the bytes are those of `le`, and the example is evaluated. -/
theorem addressBlockFieldOrder : Obligations.AddressBlockFieldOrder :=
  ⟨fun _ => rfl, rfl, le_two_bytes, le_eight_bytes, rfl, le_two_bytes, by decide⟩

/-- Settles O42: the bounds from `addressBlockLength_le` and the width of PLEN; the least length is that of the
registers after reset, the greatest that of two Long addresses in the Full shape with PLEN 255. -/
theorem mpduLengthIsExact : Obligations.MpduLengthIsExact := by
  refine ⟨fun d fd h => ?_, ⟨DescRegs.reset, _, rfl, by decide⟩,
    ⟨{ DescRegs.reset with addrcfg := 0xCC#8, plen := 0xFF#8 }, _, rfl, by decide⟩⟩
  have hlen := mpduLength_of_desc h
  have hblock := addressBlockLength_le fd.addresses
  have hplen := d.plen.isLt
  exact ⟨hlen, by omega, by omega⟩

/-- Settles O45, by the two sides of the limit; OUTLEN is two less than the length of an MPDU that fits. -/
theorem serRefusesOversizeFrames : Obligations.SerRefusesOversizeFrames := by
  refine fun s fd h => ⟨exec_ser_oversize h, fun hlen => ?_⟩
  obtain ⟨bytes, -, hcount, hser⟩ := exec_ser_fits h hlen
  refine ⟨_, hser, rfl, ?_⟩
  simp only [BitVec.toNat_ofNat]
  omega

end Sys2Proof

/-! # The exceptions family (60_exceptions.md)

How a command that is neither SER nor illegal ends on a valid descriptor (R174), and the code each command leaves
in STATUS.ERR (R202). -/

namespace Sys2Proof.Machine

/-! ## The commands other than SER (R63, R173, R174) -/

theorem commandByte_eq_serByte {i : Instr} : commandByte i = some 0x20#8 ↔ i = .ser := by
  cases i <;> simp [commandByte]

/-- `t` is `s` with a success reported: with a value and RVALID, or with neither (42_host_bus.md R174). -/
def State.Succeeds (s t : State) : Prop := (∃ r, t = s.report 0x10#8 r) ∨ t = s.report 0x00#8 0#64

theorem State.succeeds_complete {w : Nat} (s : State) (v : BitVec w) : s.Succeeds (s.complete v) :=
  .inl ⟨_, rfl⟩

theorem State.succeeds_completeOption {w : Nat} (s : State) (o : Option (BitVec w)) :
    s.Succeeds (s.completeOption o) := by
  cases o with
  | none => exact .inr rfl
  | some v => exact s.succeeds_complete v

/-- Every command byte other than SER's runs a rule that succeeds on each valid descriptor. -/
theorem exec_query {i : Instr} {c : Byte} (hi : commandByte i = some c) (hser : i ≠ .ser) :
    ∃ rule, (∀ s, exec i s = runCommand c rule s) ∧ ∀ fd s, State.Succeeds s (rule fd s) := by
  cases i <;> cases hi
  case qwpan => exact ⟨_, exec_qwpan, fun _ s => s.succeeds_complete _⟩
  case qdmode => exact ⟨_, exec_qdmode, fun _ s => s.succeeds_complete _⟩
  case qsmode => exact ⟨_, exec_qsmode, fun _ s => s.succeeds_complete _⟩
  case qdpan => exact ⟨_, exec_qdpan, fun _ s => s.succeeds_completeOption _⟩
  case qdaddr => exact ⟨_, exec_qdaddr, fun _ s => s.succeeds_completeOption _⟩
  case qspan => exact ⟨_, exec_qspan, fun _ s => s.succeeds_completeOption _⟩
  case qsaddr => exact ⟨_, exec_qsaddr, fun _ s => s.succeeds_completeOption _⟩
  case qftype => exact ⟨_, exec_qftype, fun _ s => s.succeeds_complete _⟩
  case qfcf => exact ⟨_, exec_qfcf, fun _ s => s.succeeds_complete _⟩
  case qablen => exact ⟨_, exec_qablen, fun _ s => s.succeeds_complete _⟩
  case qmlen => exact ⟨_, exec_qmlen, fun _ s => s.succeeds_complete _⟩
  case ser => exact absurd rfl hser

/-- Every command byte runs the command template with some rule. -/
theorem exec_eq_runCommand {i : Instr} {c : Byte} (hi : commandByte i = some c) :
    ∃ rule, ∀ s, exec i s = runCommand c rule s := by
  by_cases hser : i = .ser
  · subst hser
    cases hi
    exact ⟨_, exec_ser⟩
  · obtain ⟨rule, hexec, -⟩ := exec_query hi hser
    exact ⟨rule, hexec⟩

/-- A command on an invalid descriptor takes the BADDESC path (42_host_bus.md R173, R176). -/
theorem runCommand_of_desc_none {s : State} (h : desc s.d = none) (c : Byte)
    (rule : FrameDesc → State → State) : runCommand c rule s = .next ((s.storeCmd c).badDesc c) := by
  simp only [runCommand, h]

/-! ## The code in STATUS.ERR (R200, R202) -/

theorem State.err_badDesc (s : State) (c : Byte) : (s.badDesc c).res.err = 2#3 := by
  rw [State.badDesc_spec]
  rfl

theorem State.Succeeds.err {s t : State} (h : s.Succeeds t) : t.res.err = 0#3 := by
  rcases h with ⟨r, rfl⟩ | rfl <;> simp [ResultRegs.err]

theorem exec_illegal_err {c : Byte} (hL : legalCommand c = false) (s : State) :
    ∃ t, exec (decodeCommand c) s = .next t ∧ t.res.err = 3#3 :=
  ⟨_, by rw [decodeCommand_of_illegal hL]; exact exec_cmdx c s, rfl⟩

theorem exec_invalid_err {i : Instr} {c : Byte} (hi : commandByte i = some c) {s : State}
    (h : desc s.d = none) : ∃ t, exec i s = .next t ∧ t.res.err = 2#3 := by
  obtain ⟨rule, hexec⟩ := exec_eq_runCommand hi
  exact ⟨_, (hexec s).trans (runCommand_of_desc_none h c rule), State.err_badDesc _ c⟩

theorem exec_query_err {i : Instr} {c : Byte} (hi : commandByte i = some c) (hser : i ≠ .ser) {s : State}
    {fd : FrameDesc} (h : desc s.d = some fd) : ∃ t, exec i s = .next t ∧ t.res.err = 0#3 := by
  obtain ⟨rule, hexec, hrule⟩ := exec_query hi hser
  exact ⟨_, (hexec s).trans (runCommand_of_desc h c rule), (hrule fd _).err⟩

theorem exec_ser_err {s : State} {fd : FrameDesc} (h : desc s.d = some fd) :
    ∃ t, exec .ser s = .next t ∧ t.res.err = if 127 < mpduLength fd then 1#3 else 0#3 := by
  split
  case isTrue hlen => exact ⟨_, exec_ser_oversize h hlen, rfl⟩
  case isFalse hlen =>
    obtain ⟨bytes, -, -, hser⟩ := exec_ser_fits h (Nat.le_of_not_lt hlen)
    exact ⟨_, hser, by simp [ResultRegs.err]⟩

end Sys2Proof.Machine

namespace Sys2Proof

open Sys2Proof.Machine

/-- Settles O25, check by check in the order of R202: the byte, the descriptor, the length that only SER looks at. -/
theorem errorPriority : Obligations.ErrorPriority := by
  intro s c
  cases hL : legalCommand c with
  | false => exact exec_illegal_err hL s
  | true =>
    obtain ⟨i, hmem⟩ := (legalCommand_iff_exists_mem c).1 hL
    have hi := commandByte_of_mem hmem
    rw [decodeCommand_of_mem hmem]
    cases h : desc s.d with
    | none => exact exec_invalid_err hi h
    | some fd =>
      by_cases hser : i = .ser
      · subst hser
        cases hi
        simpa using exec_ser_err h
      · have hc : c ≠ 0x20#8 := fun hc => hser (commandByte_eq_serByte.1 (hc ▸ hi))
        simpa [hc] using exec_query_err hi hser h

end Sys2Proof

/-! # Decoding and encoding (30_encoding.md R60, R61, R82)

The word of a read, the word of a command, and the two directions of the round trip; then the step on a bus word. -/

namespace Sys2Proof

open Sys2Proof.Machine

/-! ## Words and the transactions they stand for -/

@[simp] theorem isWrite_busRead (off : Offset) : (busRead off).isWrite = false := by
  simp [BusWord.isWrite, busRead]

@[simp] theorem off_busRead (off : Offset) : (busRead off).off = off := by
  apply BitVec.eq_of_getLsbD_eq
  intro i hi
  have h18 : 8 + i < 18 := by omega
  simp [BusWord.off, busRead, hi, h18]

@[simp] theorem data_busRead (off : Offset) : (busRead off).data = 0#8 := by
  apply BitVec.eq_of_getLsbD_eq
  intro i hi
  simp [BusWord.data, busRead, hi]

theorem decode_busRead (off : Offset) : decode (busRead off) = .rd off := by
  rw [decode_of_read (isWrite_busRead off), off_busRead]

theorem decode_busWrite {off : Offset} (h : off ≠ 0#9) (v : Byte) : decode (busWrite off v) = .wr off v := by
  rw [decode_of_write (isWrite_busWrite off v) (by rwa [off_busWrite]), off_busWrite, data_busWrite]

theorem decode_busWrite_cmd (c : Byte) : decode (busWrite 0#9 c) = decodeCommand c := by
  rw [decode_of_command (isWrite_busWrite _ c) (off_busWrite _ c), data_busWrite]

/-- A read with DATA 0 is the word the encoder gives it. -/
theorem busRead_off {w : BusWord} (hW : w.isWrite = false) (hD : w.data = 0#8) : busRead w.off = w :=
  (BusWord.eq_iff _ _).2 ⟨(isWrite_busRead _).trans hW.symm, off_busRead _, (data_busRead _).trans hD.symm⟩

theorem busWrite_off_data {w : BusWord} (hW : w.isWrite = true) : busWrite w.off w.data = w :=
  (BusWord.eq_iff _ _).2 ⟨(isWrite_busWrite _ _).trans hW.symm, off_busWrite _ _, data_busWrite _ _⟩

/-! ## The command bytes in both directions (R63) -/

theorem encode_of_commandByte {i : Instr} {c : Byte} (h : commandByte i = some c) : encode i = busWrite 0#9 c := by
  cases i <;> cases h <;> rfl

theorem mem_opcodeMap_of_commandByte {i : Instr} {c : Byte} (h : commandByte i = some c) : (c, i) ∈ opcodeMap := by
  cases i <;> cases h <;> decide

theorem decode_encode_of_commandByte {i : Instr} {c : Byte} (h : commandByte i = some c) :
    decode (encode i) = i := by
  rw [encode_of_commandByte h, decode_busWrite_cmd, decodeCommand_of_mem (mem_opcodeMap_of_commandByte h)]

theorem encode_decodeCommand (c : Byte) : encode (decodeCommand c) = busWrite 0#9 c := by
  cases hL : legalCommand c with
  | false => rw [decodeCommand_of_illegal hL, encode]
  | true =>
    obtain ⟨i, hi⟩ := (legalCommand_iff_exists_mem c).1 hL
    rw [decodeCommand_of_mem hi, encode_of_commandByte (commandByte_of_mem hi)]

theorem wellFormed_of_commandByte {i : Instr} {c : Byte} (h : commandByte i = some c) : i.wellFormed = true := by
  cases i <;> cases h <;> rfl

theorem wellFormed_decodeCommand (c : Byte) : (decodeCommand c).wellFormed = true := by
  cases hL : legalCommand c with
  | false => simp [decodeCommand_of_illegal hL, Instr.wellFormed, hL]
  | true =>
    obtain ⟨i, hi⟩ := (legalCommand_iff_exists_mem c).1 hL
    rw [decodeCommand_of_mem hi]
    exact wellFormed_of_commandByte (commandByte_of_mem hi)

theorem wellFormed_decode (w : BusWord) : (decode w).wellFormed = true := by
  cases hW : w.isWrite with
  | false => rw [decode_of_read hW, Instr.wellFormed]
  | true =>
    by_cases hO : w.off = 0#9
    · rw [decode_of_command hW hO]
      exact wellFormed_decodeCommand w.data
    · simpa [decode_of_write hW hO, Instr.wellFormed] using hO

/-- Settles O1, by the constructors; the twelve commands by their bytes. -/
theorem decodeInvertsEncode : Obligations.DecodeInvertsEncode := by
  intro i hi
  cases i with
  | rd off => exact decode_busRead off
  | wr off v => exact decode_busWrite (by simpa [Instr.wellFormed] using hi) v
  | cmdx c => exact (decode_busWrite_cmd c).trans (decodeCommand_of_illegal (by simpa [Instr.wellFormed] using hi))
  | qwpan | qdmode | qsmode | qdpan | qdaddr | qspan | qsaddr | qftype | qfcf | qablen | qmlen | ser =>
    exact decode_encode_of_commandByte rfl

/-- Settles O2, by the decoder's branches. -/
theorem encodeInvertsDecode : Obligations.EncodeInvertsDecode := by
  intro w hw
  change w.isWrite = true ∨ w.data = 0#8 at hw
  cases hW : w.isWrite with
  | false =>
    rw [decode_of_read hW]
    exact busRead_off hW (by simpa [hW] using hw)
  | true =>
    by_cases hO : w.off = 0#9
    · rw [decode_of_command hW hO, encode_decodeCommand, ← hO, busWrite_off_data hW]
    · rw [decode_of_write hW hO]
      exact busWrite_off_data hW

/-- Settles O5, word by word. -/
theorem workedWordsDecode : Obligations.WorkedWordsDecode := by
  refine ⟨?_, ?_, ?_, ?_, ?_, ?_, ?_, ?_, ?_, ?_⟩ <;> decide

/-! ## The step on each event (00_scope.md R11) -/

theorem step_of_bus {s : State} {w : BusWord} {rest : List HostEvent} (h : s.host = .bus w :: rest) :
    step s = exec (decode w) { s with host := rest } := by
  simp only [step, State.fetch, h]

theorem step_of_rst {s : State} {rest : List HostEvent} (h : s.host = .rst :: rest) :
    step s = .next ({ s with host := rest } : State).applyReset := by
  simp only [step, State.fetch, h]

theorem step_of_idle {s : State} (h : s.host = []) : step s = .next s := by
  simp only [step, State.fetch, h]

/-- Settles O6, by the step's equation on each event. -/
theorem stepRunsTheDecodedTransaction : Obligations.StepRunsTheDecodedTransaction :=
  ⟨fun _ w _ h => ⟨wellFormed_decode w, step_of_bus h⟩, fun _ h => step_of_idle h⟩

end Sys2Proof

/-! # The address map read backwards (20_memory.md R44)

The offset of each location, so that two mapped offsets never name one location, and which locations the host may
write; then RD (42_host_bus.md R170), WR (R171) and the pseudo-instructions (30_encoding.md R81). -/

namespace Sys2Proof.Machine

/-! ## The offset of a location -/

/-- The offset that names a location; none for a byte or an index that its register or RAM does not have. -/
def Location.offset : Location → Option Nat
  | .cmd => some 0x000
  | .status => some 0x001
  | .ftsel => some 0x002
  | .ftraw => some 0x003
  | .flags => some 0x004
  | .seq => some 0x005
  | .addrcfg => some 0x006
  | .plen => some 0x007
  | .daddr k => if k < 8 then some (0x008 + k) else none
  | .dpan k => if k < 2 then some (0x010 + k) else none
  | .span k => if k < 2 then some (0x012 + k) else none
  | .saddr k => if k < 8 then some (0x018 + k) else none
  | .result k => if k < 8 then some (0x020 + k) else none
  | .outlen => some 0x028
  | .payload i => if i < 122 then some (0x100 + i) else none
  | .outbuf i => if i < 127 then some (0x180 + i) else none
  | .unmapped => none

/-- STATUS, RESULT, OUTLEN and OUTBUF (60_exceptions.md R205). -/
def Location.isReadOnly : Location → Bool
  | .status | .result _ | .outlen | .outbuf _ => true
  | _ => false

/-- The bytes of the descriptor registers (10_state.md R17 to R26). -/
def Location.isDescriptor : Location → Bool
  | .ftsel | .ftraw | .flags | .seq | .addrcfg | .plen | .daddr _ | .dpan _ | .span _ | .saddr _ => true
  | _ => false

theorem unmappedOffset_iff (n : Nat) : unmappedOffset n = true ↔
    (0x014 ≤ n ∧ n ≤ 0x017) ∨ (0x029 ≤ n ∧ n ≤ 0x0FF) ∨ (0x17A ≤ n ∧ n ≤ 0x17F) ∨ n = 0x1FF := by
  simp [unmappedOffset, or_assoc]

theorem readOnlyOffset_iff (n : Nat) : readOnlyOffset n = true ↔
    n = 0x001 ∨ (0x020 ≤ n ∧ n ≤ 0x028) ∨ (0x180 ≤ n ∧ n ≤ 0x1FE) := by
  simp [readOnlyOffset, or_assoc]

theorem locateNat_of_unmappedOffset {n : Nat} (h : unmappedOffset n = true) : locateNat n = .unmapped := by
  rw [unmappedOffset_iff] at h
  rcases h with ⟨h1, h2⟩ | ⟨h1, h2⟩ | ⟨h1, h2⟩ | rfl
  · simp (disch := omega) only [locateNat, if_pos, if_neg]
  · simp (disch := omega) only [locateNat, if_pos, if_neg]
  · simp (disch := omega) only [locateNat, if_pos, if_neg]
  · rfl

/-- The mapped offsets, range by range. -/
theorem mapped_cases {n : Nat} (hn : n < 0x200) (h : unmappedOffset n = false) :
    n < 0x008 ∨ n = 0x028 ∨ (0x008 ≤ n ∧ n < 0x010) ∨ (0x010 ≤ n ∧ n < 0x012) ∨ (0x012 ≤ n ∧ n < 0x014)
      ∨ (0x018 ≤ n ∧ n < 0x020) ∨ (0x020 ≤ n ∧ n < 0x028) ∨ (0x100 ≤ n ∧ n < 0x17A) ∨ (0x180 ≤ n ∧ n < 0x1FF) := by
  rw [← Bool.not_eq_true, unmappedOffset_iff] at h
  omega

/-- The location a mapped offset names has that offset: the map sends no two of them to one location. -/
theorem offset_locateNat {n : Nat} (hn : n < 0x200) (h : unmappedOffset n = false) :
    (locateNat n).offset = some n := by
  rcases mapped_cases hn h with h | rfl | h | h | h | h | h | h | h
  · interval_cases n <;> rfl
  · rfl
  all_goals
    simp (disch := omega) only [locateNat, Location.offset, if_pos, if_neg, Nat.add_sub_cancel']

theorem isReadOnly_locateNat {n : Nat} (hn : n < 0x200) :
    (locateNat n).isReadOnly = true ↔ readOnlyOffset n = true := by
  rw [readOnlyOffset_iff]
  cases hu : unmappedOffset n with
  | true =>
    rw [locateNat_of_unmappedOffset hu]
    rw [unmappedOffset_iff] at hu
    simp only [Location.isReadOnly, Bool.false_eq_true, false_iff]
    omega
  | false =>
    rcases mapped_cases hn hu with h | rfl | h | h | h | h | h | h | h
    · interval_cases n <;> decide
    · decide
    all_goals
      simp (disch := omega) only [locateNat, Location.isReadOnly, if_pos, if_neg, Bool.false_eq_true, false_iff,
        true_iff]
      omega

theorem locate_eq_unmapped_iff (off : Offset) : locate off = .unmapped ↔ unmappedOffset off.toNat = true := by
  refine ⟨fun h => ?_, locateNat_of_unmappedOffset⟩
  by_contra hmapped
  have hoff := offset_locateNat off.isLt (by simpa using hmapped)
  rw [show locateNat off.toNat = .unmapped from h] at hoff
  cases hoff

theorem offset_locate {off : Offset} (h : locate off ≠ .unmapped) : (locate off).offset = some off.toNat :=
  offset_locateNat off.isLt (by rwa [← Bool.not_eq_true, ← locate_eq_unmapped_iff])

theorem locate_inj {o off : Offset} (h : locate o = locate off) (hmapped : locate off ≠ .unmapped) : o = off := by
  have ho := offset_locate (h ▸ hmapped)
  rw [h, offset_locate hmapped] at ho
  exact BitVec.eq_of_toNat_eq (Option.some.inj ho).symm

theorem toNat_of_locate_outbuf {off : Offset} {i : Nat} (h : locate off = .outbuf i) :
    off.toNat = 0x180 + i ∧ i < 127 := by
  obtain ⟨-, -, hbound⟩ := locateNat_bounds off.toNat
  have hi := hbound i h
  have hoff := offset_locate (off := off) (by simp [h])
  rw [h, Location.offset, if_pos hi] at hoff
  exact ⟨(Option.some.inj hoff).symm, hi⟩

theorem isReadOnly_locate (off : Offset) : (locate off).isReadOnly = true ↔ readOnlyOffset off.toNat = true :=
  isReadOnly_locateNat off.isLt

/-- The five kinds of location: CMD, unmapped, read-only, a PAYLOAD byte, a descriptor byte (R44, R171). -/
theorem Location.kinds (l : Location) :
    l = .cmd ∨ l = .unmapped ∨ l.isReadOnly = true ∨ (∃ i, l = .payload i) ∨ l.isDescriptor = true := by
  cases l <;> simp [Location.isReadOnly, Location.isDescriptor]

/-! ## RD, case by case (42_host_bus.md R170) -/

/-- The locations a read may name: mapped, and an OUTBUF byte only below OUTLEN. -/
def State.Readable (s : State) (l : Location) : Prop :=
  l ≠ .unmapped ∧ ∀ i, l = .outbuf i → i < s.res.outlen.toNat

theorem exec_rd_unmapped {off : Offset} (h : locate off = .unmapped) (s : State) :
    exec (.rd off) s = s.raise .unmapped := by
  simp only [exec, execRd, h]

theorem exec_rd_outIndex {off : Offset} {i : Nat} {s : State} (h : locate off = .outbuf i)
    (hi : s.res.outlen.toNat ≤ i) : exec (.rd off) s = s.raise .outIndex := by
  simp only [exec, execRd, h, if_neg (Nat.not_lt.2 hi)]

theorem exec_rd_readable {off : Offset} {s : State} (h : s.Readable (locate off)) :
    exec (.rd off) s = .next (s.respond (s.stored (locate off))) := by
  rcases execRd_cases off s with ⟨hl, -⟩ | ⟨i, hl, hi, -⟩ | ⟨-, -, hrd⟩
  · exact absurd hl h.1
  · exact absurd (h.2 i hl) (Nat.not_lt.2 hi)
  · exact hrd

theorem State.stored_pushRead (s : State) (b : Byte) (l : Location) : (s.pushRead b).stored l = s.stored l := by
  cases l <;> rfl

theorem exec_rd_stored {off : Offset} {s : State} {b : Byte} (h : s.Readable (locate off))
    (hb : s.stored (locate off) = some b) : exec (.rd off) s = .next { s with hostReads := b :: s.hostReads } := by
  rw [exec_rd_readable h, hb]
  rfl

/-- A read at an offset written as a number. -/
theorem exec_rd_ofNat {n : Nat} {l : Location} {s : State} {b : Byte} (hl : locateNat n = l) (hn : n < 0x200)
    (h : s.Readable l) (hb : s.stored l = some b) :
    exec (.rd (BitVec.ofNat 9 n)) s = .next { s with hostReads := b :: s.hostReads } := by
  rw [← hl, ← locate_ofNat n hn] at h hb
  exact exec_rd_stored h hb

theorem locate_payload {i : Nat} (hi : i < 122) : locate (BitVec.ofNat 9 (0x100 + i)) = .payload i := by
  rw [locate_ofNat _ (by omega), locateNat_payload i hi]

theorem exec_rd_payload {i : Nat} (hi : i < 122) (s : State) :
    exec (.rd (BitVec.ofNat 9 (0x100 + i))) s = .next (s.respond (s.payload.get? i)) := by
  have hl := locate_payload hi
  rw [exec_rd_readable (by simp [State.Readable, hl]), hl, State.stored]

theorem locate_outbuf {i : Nat} (hi : i < 127) : locate (BitVec.ofNat 9 (0x180 + i)) = .outbuf i := by
  rw [locate_ofNat _ (by omega), locateNat_outbuf i hi]

theorem exec_rd_outbuf {i : Nat} {s : State} {b : Byte} (hi : i < 127) (hlen : i < s.res.outlen.toNat)
    (hb : s.outbuf.get? i = some b) :
    exec (.rd (BitVec.ofNat 9 (0x180 + i))) s = .next { s with hostReads := b :: s.hostReads } :=
  exec_rd_ofNat (locateNat_outbuf i hi) (by omega) (by simpa [State.Readable] using hlen) hb

/-! ## WR, case by case (R171) -/

theorem exec_wr_unmapped {off : Offset} (h : locate off = .unmapped) (v : Byte) (s : State) :
    exec (.wr off v) s = s.raise .unmapped := by
  simp only [exec, execWr, h]

theorem exec_wr_readOnly {off : Offset} (h : (locate off).isReadOnly = true) (v : Byte) (s : State) :
    exec (.wr off v) s = s.raise .roWrite := by
  simp only [exec, execWr]
  cases hl : locate off <;> simp_all [Location.isReadOnly]

theorem exec_wr_payload {off : Offset} {i : Nat} (h : locate off = .payload i) (v : Byte) (s : State) :
    exec (.wr off v) s = .next (s.writePayload i v) := by
  simp only [exec, execWr, h]

theorem exec_wr_descriptor {off : Offset} (h : (locate off).isDescriptor = true) (v : Byte) (s : State) :
    exec (.wr off v) s = .next (s.writeReg (locate off) v) := by
  simp only [exec, execWr]
  cases hl : locate off <;> simp_all [Location.isDescriptor]

theorem exec_wr_ofNat {n : Nat} {l : Location} (hl : locateNat n = l) (hn : n < 0x200) (h : l.isDescriptor = true)
    (v : Byte) (s : State) : exec (.wr (BitVec.ofNat 9 n) v) s = .next (s.writeReg l v) := by
  rw [← hl, ← locate_ofNat n hn] at h ⊢
  exact exec_wr_descriptor h v s

/-- A write stores the byte with its reserved bits at 0 (10_state.md R32). -/
theorem State.writeReg_eq (s : State) (l : Location) (v : Byte) :
    s.writeReg l v = { s with d := s.d.put l (v &&& ~~~reservedMask l) } := by
  rw [State.writeReg, cleanForWrite_resetByte]

theorem State.writeReg_unreserved {l : Location} (h : reservedMask l = 0x00#8) (s : State) (v : Byte) :
    s.writeReg l v = { s with d := s.d.put l v } := by
  rw [State.writeReg_eq, h, BitVec.not_zero, BitVec.and_allOnes]

theorem exec_wr_unreserved_ofNat {n : Nat} {l : Location} (hl : locateNat n = l) (hn : n < 0x200)
    (h : l.isDescriptor = true) (hm : reservedMask l = 0x00#8) (v : Byte) (s : State) :
    exec (.wr (BitVec.ofNat 9 n) v) s = .next { s with d := s.d.put l v } := by
  rw [exec_wr_ofNat hl hn h, State.writeReg_unreserved hm]

/-- The bytes of a value after one is replaced (20_memory.md R40). -/
theorem byteOf_withByte {w : Nat} (v : BitVec w) {k : Nat} (h : 8 * k + 8 ≤ w) (b : Byte) (j : Nat) :
    byteOf (withByte v k b) j = if j = k then b else byteOf v j := by
  split
  · next hj => rw [hj, byteOf_withByte_self v k b h]
  · next hj => exact byteOf_withByte_of_ne v k j b hj

/-- What every location stores after a write to a byte of a descriptor register: a location of another register is
read from a field the write does not touch, a byte of the same register by `byteOf_withByte`. -/
theorem State.stored_writeReg {l : Location} (hl : l.isDescriptor = true) (hoff : l.offset.isSome = true)
    (s : State) (v : Byte) (l' : Location) :
    (s.writeReg l v).stored l' = if l' = l then some (v &&& ~~~reservedMask l) else s.stored l' := by
  rw [State.writeReg_eq]
  cases l <;> simp [Location.isDescriptor] at hl
  all_goals cases l' <;> simp [State.stored, DescRegs.put]
  all_goals
    have hk := by simpa [Location.offset] using hoff
    rw [byteOf_withByte _ (by omega), apply_ite some]

/-- A location that a host may write is in its register's range. -/
theorem isSome_offset_locate {off : Offset} (h : locate off ≠ .unmapped) : (locate off).offset.isSome = true := by
  rw [offset_locate h, Option.isSome_some]

theorem Location.ne_unmapped_of_isDescriptor {l : Location} (h : l.isDescriptor = true) : l ≠ .unmapped := by
  rintro rfl
  cases h

theorem State.stored_writeReg_locate {off : Offset} (h : (locate off).isDescriptor = true) (s : State) (v : Byte)
    (l : Location) : (s.writeReg (locate off) v).stored l =
      if l = locate off then some (v &&& ~~~reservedMask (locate off)) else s.stored l :=
  State.stored_writeReg h (isSome_offset_locate (Location.ne_unmapped_of_isDescriptor h)) s v l

theorem State.stored_writePayload (s : State) (i : Nat) (v : Byte) (l : Location) :
    (s.writePayload i v).stored l = if l = .payload i then some v else s.stored l := by
  cases l with
  | payload j => simp [State.stored, Memory.get?_set, eq_comm]
  | _ => rfl

/-- A write that completes at an offset other than CMD is a PAYLOAD write or a register write (R171). -/
theorem exec_wr_next {off : Offset} {v : Byte} {s t : State} (h0 : off ≠ 0#9) (h : exec (.wr off v) s = .next t) :
    (∃ i, locate off = .payload i ∧ t = s.writePayload i v)
      ∨ ((locate off).isDescriptor = true ∧ t = s.writeReg (locate off) v) := by
  rcases (locate off).kinds with hl | hl | hl | ⟨i, hl⟩ | hl
  · exact absurd ((locate_bounds off).1 hl) h0
  · rw [exec_wr_unmapped hl] at h
    cases h
  · rw [exec_wr_readOnly hl] at h
    cases h
  · rw [exec_wr_payload hl] at h
    cases h
    exact .inl ⟨i, hl, rfl⟩
  · rw [exec_wr_descriptor hl] at h
    cases h
    exact .inr ⟨hl, rfl⟩

/-- A write that completes stores its byte, reserved bits 0, at its own location and at no other. -/
theorem stored_of_exec_wr {off : Offset} {v : Byte} {s t : State} (h0 : off ≠ 0#9)
    (h : exec (.wr off v) s = .next t) (l : Location) :
    t.stored l = if l = locate off then some (v &&& ~~~reservedMask (locate off)) else s.stored l := by
  rcases exec_wr_next h0 h with ⟨i, hl, rfl⟩ | ⟨hl, rfl⟩
  · rw [State.stored_writePayload, hl]
    simp [reservedMask]
  · exact State.stored_writeReg_locate hl s v l

theorem readable_of_exec_wr {off : Offset} {v : Byte} {s t u : State} (h0 : off ≠ 0#9)
    (h : exec (.wr off v) s = .next t) : u.Readable (locate off) := by
  rcases exec_wr_next h0 h with ⟨i, hl, -⟩ | ⟨hl, -⟩
  · simp [State.Readable, hl]
  · exact ⟨Location.ne_unmapped_of_isDescriptor hl, fun i hi => by simp [hi, Location.isDescriptor] at hl⟩

end Sys2Proof.Machine

namespace Sys2Proof

open Sys2Proof.Machine

/-! ## The statements about RD -/

/-- Settles O11: each one-byte register is what its offset stores. -/
theorem readOneByteRegisters : Obligations.ReadOneByteRegisters := fun _ =>
  ⟨rfl, rfl, rfl, rfl, rfl, rfl, rfl, rfl, rfl⟩

/-- Settles O12, register by register with the forward lemmas of the address map. -/
theorem readMultiByteRegisters : Obligations.ReadMultiByteRegisters := by
  refine fun s k => ⟨fun hk => ?daddr, fun hk => ?dpan, fun hk => ?span, fun hk => ?saddr, fun hk => ?result⟩
  case daddr => exact exec_rd_ofNat (locateNat_daddr k hk) (by omega) (by simp [State.Readable]) rfl
  case dpan => exact exec_rd_ofNat (locateNat_dpan k hk) (by omega) (by simp [State.Readable]) rfl
  case span => exact exec_rd_ofNat (locateNat_span k hk) (by omega) (by simp [State.Readable]) rfl
  case saddr => exact exec_rd_ofNat (locateNat_saddr k hk) (by omega) (by simp [State.Readable]) rfl
  case result => exact exec_rd_ofNat (locateNat_result k hk) (by omega) (by simp [State.Readable]) rfl

/-- Settles O13: a PAYLOAD index is listed or it is not. -/
theorem readPayloadByteOrDraw : Obligations.ReadPayloadByteOrDraw := by
  refine fun s i hi => ⟨fun b hb => ?_, fun hpw => ?_⟩
  · rw [exec_rd_payload hi, hb]
    rfl
  · have hnone : s.payload.get? i = none := by simpa [State.pw] using hpw
    rw [exec_rd_payload hi, hnone]
    rfl

/-- Settles O14, by the two sides of OUTLEN. -/
theorem readOutbufByteOrFault : Obligations.ReadOutbufByteOrFault := fun _ _ hi =>
  ⟨fun _ hlen hb => exec_rd_outbuf hi hlen hb, fun hlen => exec_rd_outIndex (locate_outbuf hi) hlen⟩

/-- Settles O15: every offset it names is readable, and the answer is the stored byte or the next draw. -/
theorem readChangesNoHardwareState : Obligations.ReadChangesNoHardwareState := by
  intro s off hmapped hout
  have hread : s.Readable (locate off) := by
    refine ⟨fun hl => ?_, fun i hl => ?_⟩
    · rw [(locate_eq_unmapped_iff off).1 hl] at hmapped
      cases hmapped
    · obtain ⟨hoff, -⟩ := toNat_of_locate_outbuf hl
      have hlt := hout (by omega)
      omega
  rw [exec_rd_readable hread]
  cases s.stored (locate off) with
  | some b => exact ⟨b, s.draws, rfl, .inl rfl⟩
  | none => exact ⟨_, _, rfl, .inr ⟨rfl, rfl⟩⟩

/-- Settles O16: a read that took no draw found a stored byte, which the read leaves there. -/
theorem readsAreIdempotent : Obligations.ReadsAreIdempotent := by
  intro s t off h hdraws
  rcases execRd_cases off s with ⟨-, hrd⟩ | ⟨i, -, -, hrd⟩ | ⟨hmapped, hout, hrd⟩
  · cases h.symm.trans hrd
  · cases h.symm.trans hrd
  · cases h.symm.trans hrd
    cases hb : s.stored (locate off) with
    | none =>
      rw [hb] at hdraws
      exact absurd hdraws (Nat.succ_ne_self _)
    | some b => exact ⟨b, rfl, exec_rd_stored ⟨hmapped, hout⟩ ((State.stored_pushRead s b _).trans hb)⟩

/-! ## The statements about WR -/

/-- Settles O17: an unmapped offset and a read-only one, by the location it names. -/
theorem forbiddenOffsetsFault : Obligations.ForbiddenOffsetsFault := by
  refine fun s off v => ⟨fun h => ?_, fun h => exec_wr_readOnly ((isReadOnly_locate off).2 h) v s⟩
  have hl := (locate_eq_unmapped_iff off).2 h
  exact ⟨exec_rd_unmapped hl s, exec_wr_unmapped hl v s⟩

/-- Settles O18: three registers have reserved bits, the other three store the byte as it is. -/
theorem writeOneByteRegisters : Obligations.WriteOneByteRegisters := by
  intro s v
  have hmasked (off : Offset) (h : (locate off).isDescriptor = true) :=
    (exec_wr_descriptor h v s).trans (congrArg Host.Outcome.next (s.writeReg_eq (locate off) v))
  have hplain (off : Offset) (h : (locate off).isDescriptor = true) (hm : reservedMask (locate off) = 0x00#8) :=
    (exec_wr_descriptor h v s).trans (congrArg Host.Outcome.next (State.writeReg_unreserved hm s v))
  exact ⟨hmasked _ rfl, hplain _ rfl rfl, hmasked _ rfl, hplain _ rfl rfl, hmasked _ rfl, hplain _ rfl rfl⟩

/-- Settles O19, register by register: the new value is the old one with its byte `k` replaced. -/
theorem writeMultiByteRegisters : Obligations.WriteMultiByteRegisters := by
  intro s v k
  refine ⟨fun hk => ?daddr, fun hk => ?dpan, fun hk => ?span, fun hk => ?saddr⟩
  case daddr =>
    exact ⟨_, exec_wr_unreserved_ofNat (locateNat_daddr k hk) (by omega) rfl rfl v s,
      fun j _ => byteOf_withByte _ (by omega) v j⟩
  case dpan =>
    exact ⟨_, exec_wr_unreserved_ofNat (locateNat_dpan k hk) (by omega) rfl rfl v s,
      fun j _ => byteOf_withByte _ (by omega) v j⟩
  case span =>
    exact ⟨_, exec_wr_unreserved_ofNat (locateNat_span k hk) (by omega) rfl rfl v s,
      fun j _ => byteOf_withByte _ (by omega) v j⟩
  case saddr =>
    exact ⟨_, exec_wr_unreserved_ofNat (locateNat_saddr k hk) (by omega) rfl rfl v s,
      fun j _ => byteOf_withByte _ (by omega) v j⟩

/-- Settles O20, with `Memory.get?_set` for the bytes and the mark. -/
theorem writePayloadByte : Obligations.WritePayloadByte := by
  intro s v i hi
  have hl := locate_payload hi
  refine ⟨_, exec_wr_payload hl v s, rfl, ?_, fun j => ?_⟩
  · simp [State.pw, Memory.get?_set]
  · simp [Memory.get?_set, eq_comm]

/-- Settles O21: the location of a writable offset is a PAYLOAD byte or a descriptor byte, and no other mapped
offset names it. -/
theorem writeChangesOneByte : Obligations.WriteChangesOneByte := by
  intro s off v h0 hmapped hwritable
  have hother {t : State} (h : exec (.wr off v) s = .next t) (o : Offset) (ho : o ≠ off) :
      t.stored (locate o) = s.stored (locate o) := by
    rw [stored_of_exec_wr h0 h, if_neg]
    intro hl
    refine ho (locate_inj hl fun hu => ?_)
    rw [(locate_eq_unmapped_iff off).1 hu] at hmapped
    cases hmapped
  rcases (locate off).kinds with hl | hl | hl | ⟨i, hl⟩ | hl
  · exact absurd ((locate_bounds off).1 hl) h0
  · rw [(locate_eq_unmapped_iff off).1 hl] at hmapped
    cases hmapped
  · rw [(isReadOnly_locate off).1 hl] at hwritable
    cases hwritable
  · have h := exec_wr_payload hl v s
    exact ⟨_, h, rfl, hother h⟩
  · have h := exec_wr_descriptor hl v s
    exact ⟨_, h, rfl, hother h⟩

/-- Settles O22: what the write left at its location is what the read finds there. -/
theorem readReturnsTheByteWritten : Obligations.ReadReturnsTheByteWritten := by
  intro s t off v h0 h
  refine exec_rd_stored (readable_of_exec_wr h0 h) ?_
  rw [stored_of_exec_wr h0 h, if_pos rfl]

/-! ## Reset (70_reset_and_hazards.md R230) -/

/-- Settles O7: no PAYLOAD byte is listed after a reset, and OUTLEN is 0. -/
theorem resetEventRestoresTheRegisters : Obligations.ResetEventRestoresTheRegisters := by
  intro s rest h
  refine ⟨_, step_of_rst h, rfl, rfl, rfl, rfl, rfl, rfl, rfl, rfl, rfl, rfl, rfl, rfl, rfl, rfl, fun i _ => rfl,
    rfl, rfl, rfl, rfl, fun i hi => ?_, fun i hi => ?_⟩
  · exact exec_rd_payload hi _
  · exact exec_rd_outIndex (locate_outbuf hi) (Nat.zero_le i)

/-- Settles O8, field by field. -/
theorem resetStateValues : Obligations.ResetStateValues :=
  ⟨rfl, rfl, rfl, rfl, rfl, rfl, rfl, rfl, rfl, rfl, rfl, rfl, rfl, rfl, fun _ => rfl⟩

/-- Settles O10: each field is an extract of its register, at the place of its first bit. -/
theorem descriptorFieldBits : Obligations.DescriptorFieldBits := by
  refine fun d => ⟨fun j hj => ?_, rfl, rfl, rfl, rfl, ?_, ?_, ?_, ?_⟩
  · simp [DescRegs.kind, hj]
  · simp [DescRegs.dmode]
  · simp [DescRegs.dmode]
  · simp [DescRegs.smode]
  · simp [DescRegs.smode]

end Sys2Proof

/-! # The pseudo-instructions (30_encoding.md R81)

A run of writes at the rising offsets of one register leaves its bytes replaced in order, and a run of reads returns
its bytes in order; for the whole register that is its value. -/

namespace Sys2Proof.Machine

/-! ## Runs of writes -/

/-- The value with the bytes of a list put in from byte `k` upwards. -/
def withBytes {w : Nat} (x : BitVec w) (k : Nat) : List Byte → BitVec w
  | [] => x
  | b :: bs => withBytes (withByte x k b) (k + 1) bs

theorem byteOf_withBytes {w : Nat} (bs : List Byte) (x : BitVec w) (k j : Nat) (h : 8 * (k + bs.length) ≤ w) :
    byteOf (withBytes x k bs) j = if k ≤ j then bs[j - k]?.getD (byteOf x j) else byteOf x j := by
  induction bs generalizing x k with
  | nil => simp [withBytes]
  | cons b bs ih =>
    rw [List.length_cons] at h
    rw [withBytes, ih _ _ (by omega), byteOf_withByte x (by omega)]
    rcases Nat.lt_trichotomy j k with hlt | rfl | hgt
    · rw [if_neg (by omega), if_neg (by omega), if_neg (by omega)]
    · rw [if_neg (by omega), if_pos rfl, if_pos (le_refl j), Nat.sub_self]
      rfl
    · obtain ⟨m, rfl⟩ := Nat.exists_eq_add_of_le hgt
      have hm : k + 1 + m - k = m + 1 := by omega
      rw [if_pos (by omega), if_neg (by omega), if_pos (by omega), hm, List.getElem?_cons_succ,
        Nat.add_sub_cancel_left]

/-- Values whose bytes agree are equal. -/
theorem eq_of_byteOf_eq {n : Nat} {x y : BitVec (8 * n)} (h : ∀ j < n, byteOf x j = byteOf y j) : x = y := by
  apply BitVec.eq_of_getLsbD_eq
  intro i hi
  have hbit := congrArg (·.getLsbD (i % 8)) (h (i / 8) (by omega))
  simpa only [getLsbD_byteOf _ _ _ (Nat.mod_lt i (by omega : 8 > 0)), Nat.div_add_mod] using hbit

/-- All bytes of a value put into a register of its size give the value. -/
theorem withBytes_le {n : Nat} (x v : BitVec (8 * n)) : withBytes x 0 (le v n) = v := by
  refine eq_of_byteOf_eq fun j hj => ?_
  rw [byteOf_withBytes _ _ _ _ (by simp), if_pos (Nat.zero_le j), Nat.sub_zero, getElem?_le v n j hj, Option.getD_some]

/-- A run of writes to the bytes of one register, where `put` gives the state by the register's value. -/
theorem execAll_writesFrom {w base n : Nat} {put : BitVec w → State} (hpos : 0 < base) (htop : base + n ≤ 0x200)
    (hstep : ∀ k < n, ∀ x b, exec (.wr (BitVec.ofNat 9 (base + k)) b) (put x) = .next (put (withByte x k b)))
    (bs : List Byte) (k : Nat) (x : BitVec w) (hk : k + bs.length ≤ n) :
    execAll (writesFrom (base + k) bs) (put x) = some (put (withBytes x k bs)) := by
  induction bs generalizing k x with
  | nil => rfl
  | cons b bs ih =>
    rw [List.length_cons] at hk
    have h0 : BitVec.ofNat 9 (base + k) ≠ 0#9 := by
      rw [ne_eq, ← BitVec.toNat_inj, BitVec.toNat_ofNat, Nat.mod_eq_of_lt (by omega), BitVec.toNat_ofNat]
      omega
    simp only [writesFrom, execAll, writeTransaction, decode_busWrite h0, hstep k (by omega)]
    exact ih (k + 1) _ (by omega)

/-- The whole value written to a register, byte by byte from its base. -/
theorem execAll_writes_register {base n : Nat} {put : BitVec (8 * n) → State} (hpos : 0 < base)
    (htop : base + n ≤ 0x200)
    (hstep : ∀ k < n, ∀ x b, exec (.wr (BitVec.ofNat 9 (base + k)) b) (put x) = .next (put (withByte x k b)))
    (x v : BitVec (8 * n)) : execAll (writesFrom base (le v n)) (put x) = some (put v) := by
  have hrun := execAll_writesFrom hpos htop hstep (le v n) 0 x (by simp)
  rwa [withBytes_le] at hrun

/-! ## Runs of reads -/

/-- A run of reads of the bytes of one register. -/
theorem execAll_readsFrom {w base n : Nat} {v : BitVec w} {s : State}
    (hstep : ∀ k < n, ∀ rs, exec (.rd (BitVec.ofNat 9 (base + k))) { s with hostReads := rs }
      = .next { s with hostReads := byteOf v k :: rs })
    (m k : Nat) (rs : List Byte) (hk : k + m ≤ n) :
    execAll (readsFrom (base + k) m) { s with hostReads := rs }
      = some { s with hostReads := ((List.range' k m).map (byteOf v)).reverse ++ rs } := by
  induction m generalizing k rs with
  | zero => rfl
  | succ m ih =>
    simp only [readsFrom, execAll, hstep k (by omega)]
    rw [show base + k + 1 = base + (k + 1) by omega, ih (k + 1) _ (by omega)]
    simp [List.range'_succ]

theorem toNat_byteOf {w : Nat} (v : BitVec w) (k : Nat) : (byteOf v k).toNat = v.toNat / 256 ^ k % 256 := by
  rw [byteOf, BitVec.extractLsb'_toNat, Nat.shiftRight_eq_div_pow, Nat.pow_mul]

/-- The value of a run of bytes of `v`, in base 256. -/
theorem readValue_bytes {w : Nat} (v : BitVec w) (m k : Nat) :
    readValue ((List.range' k m).map (byteOf v)) = v.toNat / 256 ^ k % 256 ^ m := by
  induction m generalizing k with
  | zero => simp [readValue, Nat.mod_one]
  | succ m ih =>
    rw [List.range'_succ, List.map_cons, readValue, ih, toNat_byteOf, Nat.pow_succ, ← Nat.div_div_eq_div_mul,
      Nat.pow_succ', Nat.mod_mul]

theorem readValue_le {n : Nat} (v : BitVec (8 * n)) : readValue (le v n) = v.toNat := by
  rw [le, List.range_eq_range', readValue_bytes, Nat.pow_zero, Nat.div_one]
  exact Nat.mod_eq_of_lt (by simpa [Nat.pow_mul] using v.isLt)

/-- The whole value of a register read, byte by byte from its base. -/
theorem execAll_reads_register {w base n : Nat} {v : BitVec w} {s : State}
    (hstep : ∀ k < n, ∀ rs, exec (.rd (BitVec.ofNat 9 (base + k))) { s with hostReads := rs }
      = .next { s with hostReads := byteOf v k :: rs }) :
    execAll (readsFrom base n) s = some { s with hostReads := (le v n).reverse ++ s.hostReads } := by
  rw [le, List.range_eq_range']
  exact execAll_readsFrom hstep n 0 s.hostReads (by omega)

end Sys2Proof.Machine

namespace Sys2Proof

open Sys2Proof.Machine

/-- Settles O52: each register by its run of writes. -/
theorem widePseudoWritesSetTheRegister : Obligations.WidePseudoWritesSetTheRegister := by
  intro s v x
  refine ⟨?daddr, ?saddr, ?dpan, ?span⟩
  case daddr =>
    exact execAll_writes_register (base := 0x008) (n := 8) (put := fun y => { s with d := { s.d with daddr := y } })
      (by omega) (by omega)
      (fun k hk _ b => exec_wr_unreserved_ofNat (locateNat_daddr k hk) (by omega) rfl rfl b _) s.d.daddr v
  case saddr =>
    exact execAll_writes_register (base := 0x018) (n := 8) (put := fun y => { s with d := { s.d with saddr := y } })
      (by omega) (by omega)
      (fun k hk _ b => exec_wr_unreserved_ofNat (locateNat_saddr k hk) (by omega) rfl rfl b _) s.d.saddr v
  case dpan =>
    exact execAll_writes_register (base := 0x010) (n := 2) (put := fun y => { s with d := { s.d with dpan := y } })
      (by omega) (by omega)
      (fun k hk _ b => exec_wr_unreserved_ofNat (locateNat_dpan k hk) (by omega) rfl rfl b _) s.d.dpan x
  case span =>
    exact execAll_writes_register (base := 0x012) (n := 2) (put := fun y => { s with d := { s.d with span := y } })
      (by omega) (by omega)
      (fun k hk _ b => exec_wr_unreserved_ofNat (locateNat_span k hk) (by omega) rfl rfl b _) s.d.span x

/-- Settles O53: each register by its run of reads. -/
theorem widePseudoReadsGiveTheValue : Obligations.WidePseudoReadsGiveTheValue := fun s =>
  ⟨le s.res.result 8, le s.d.dpan 2,
    execAll_reads_register (base := 0x020) fun k hk _ =>
      exec_rd_ofNat (locateNat_result k hk) (by omega) (by simp [State.Readable]) rfl,
    readValue_le (n := 8) s.res.result,
    execAll_reads_register (base := 0x010) fun k hk _ =>
      exec_rd_ofNat (locateNat_dpan k hk) (by omega) (by simp [State.Readable]) rfl,
    readValue_le (n := 2) s.d.dpan⟩

end Sys2Proof

/-! # The commands: what each one leaves, and on what it depends (42_host_bus.md R172 to R176)

A query's outcome is a function of the decoded descriptor; SER ends in one of two ways. From this come the frame of
the commands, what they overwrite, and that they read nothing but the decoded descriptor and the payload. -/

namespace Sys2Proof.Machine

/-! ## The queries -/

/-- What a query may leave in STATUS and RESULT: a value with RVALID, or neither, without or with BADDESC. -/
def QueryOutcome (status : Byte) (result : BitVec 64) : Prop :=
  status = 0x10#8 ∨ (result = 0#64 ∧ (status = 0x00#8 ∨ status = 0x02#8))

/-- A rule that reports the outcome `out` makes of the descriptor, whatever the state holds. -/
def Reports (rule : FrameDesc → State → State) (out : FrameDesc → Byte × BitVec 64) : Prop :=
  ∀ fd, QueryOutcome (out fd).1 (out fd).2 ∧ ∀ s : State, rule fd s = s.report (out fd).1 (out fd).2

theorem reports_complete {w : Nat} (f : FrameDesc → BitVec w) :
    ∃ out, Reports (fun fd s => s.complete (f fd)) out :=
  ⟨fun fd => (0x10#8, (f fd).setWidth 64), fun _ => ⟨.inl rfl, fun _ => rfl⟩⟩

theorem reports_completeOption {w : Nat} (f : FrameDesc → Option (BitVec w)) :
    ∃ out, Reports (fun fd s => s.completeOption (f fd)) out := by
  refine ⟨fun fd => (f fd).elim (0x00#8, 0#64) fun v => (0x10#8, v.setWidth 64), fun fd => ?_⟩
  dsimp only
  cases f fd with
  | none => exact ⟨.inr ⟨rfl, .inl rfl⟩, fun _ => rfl⟩
  | some v => exact ⟨.inl rfl, fun _ => rfl⟩

theorem exec_query_reports {i : Instr} {c : Byte} (hi : commandByte i = some c) (hser : i ≠ .ser) :
    ∃ rule, (∃ out, Reports rule out) ∧ ∀ s, exec i s = runCommand c rule s := by
  cases i <;> cases hi
  case qwpan => exact ⟨_, reports_complete _, exec_qwpan⟩
  case qdmode => exact ⟨_, reports_complete _, exec_qdmode⟩
  case qsmode => exact ⟨_, reports_complete _, exec_qsmode⟩
  case qdpan => exact ⟨_, reports_completeOption _, exec_qdpan⟩
  case qdaddr => exact ⟨_, reports_completeOption _, exec_qdaddr⟩
  case qspan => exact ⟨_, reports_completeOption _, exec_qspan⟩
  case qsaddr => exact ⟨_, reports_completeOption _, exec_qsaddr⟩
  case qftype => exact ⟨_, reports_complete _, exec_qftype⟩
  case qfcf => exact ⟨_, reports_complete _, exec_qfcf⟩
  case qablen => exact ⟨_, reports_complete _, exec_qablen⟩
  case qmlen => exact ⟨_, reports_complete _, exec_qmlen⟩
  case ser => exact absurd rfl hser

theorem ne_serByte {i : Instr} {c : Byte} (hi : commandByte i = some c) (hser : i ≠ .ser) : c ≠ 0x20#8 :=
  fun hc => hser (commandByte_eq_serByte.1 (hc ▸ hi))

/-- A query leaves CMD, STATUS and RESULT, the last two a function of the decoded descriptor. -/
theorem exec_query_eq {i : Instr} {c : Byte} (hi : commandByte i = some c) (hser : i ≠ .ser) :
    ∃ out : Option FrameDesc → Byte × BitVec 64, (∀ o, QueryOutcome (out o).1 (out o).2)
      ∧ ∀ s, exec i s = .next (s.afterCommand c (out (desc s.d)).1 (out (desc s.d)).2) := by
  obtain ⟨rule, ⟨out, hout⟩, hexec⟩ := exec_query_reports hi hser
  refine ⟨fun o => o.elim (0x02#8, 0#64) out, fun o => ?_, fun s => ?_⟩
  · cases o with
    | none => exact .inr ⟨rfl, .inr rfl⟩
    | some fd => exact (hout fd).1
  · rw [hexec]
    cases h : desc s.d with
    | none =>
      rw [runCommand_of_desc_none h, State.badDesc_storeCmd (ne_serByte hi hser)]
      rfl
    | some fd =>
      obtain ⟨-, hrule⟩ := hout fd
      rw [runCommand_of_desc h, hrule]
      rfl

/-! ## SER -/

theorem exec_ser_invalid {s : State} (h : desc s.d = none) : exec .ser s = .next { s with
    res := { cmd := 0x20#8, status := 0x02#8, result := 0#64, outlen := 0x00#8 } } := by
  rw [exec_ser, runCommand_of_desc_none h, State.badDesc_spec]
  rfl

/-- The two ways SER ends: refused with no readable buffer, or 3 to 125 bytes stored (41_frame_codec.md R160). -/
theorem exec_ser_cases (s : State) :
    (∃ x, (x = 0x01#8 ∨ x = 0x02#8) ∧ exec .ser s = .next { s with
        res := { cmd := 0x20#8, status := x, result := 0#64, outlen := 0x00#8 } })
      ∨ ∃ bytes r n, 3 ≤ bytes.length ∧ bytes.length ≤ 125 ∧ exec .ser s = .next { s with
          outbuf := s.outbuf.setFrom 0 bytes, draws := n
          res := { cmd := 0x20#8, status := 0x10#8, result := r, outlen := BitVec.ofNat 8 bytes.length } } := by
  cases h : desc s.d with
  | none => exact .inl ⟨_, .inr rfl, exec_ser_invalid h⟩
  | some fd =>
    by_cases hlen : 127 < mpduLength fd
    · exact .inl ⟨_, .inl rfl, exec_ser_oversize h hlen⟩
    · obtain ⟨bytes, -, hcount, hser⟩ := exec_ser_fits h (Nat.le_of_not_lt hlen)
      have hmin := mpduLength_of_desc h
      exact .inr ⟨bytes, _, _, by omega, by omega, hser⟩

/-- SER reads the decoded descriptor, the payload, the draws and, to keep what it does not overwrite, OUTBUF. -/
theorem exec_ser_congr {s u : State} (hdesc : desc u.d = desc s.d) (hpayload : u.payload = s.payload)
    (hdraws : u.draws = s.draws) (houtbuf : u.outbuf = s.outbuf) :
    ∃ t, exec .ser s = .next t
      ∧ exec .ser u = .next { u with res := t.res, outbuf := t.outbuf, draws := t.draws } := by
  have hlist (n : Nat) : u.payloadList n = s.payloadList n := by rw [State.payloadList, hpayload, hdraws]; rfl
  cases h : desc s.d with
  | none =>
    rw [exec_ser_invalid h, exec_ser_invalid (hdesc.trans h)]
    exact ⟨_, rfl, by rw [← hdraws, ← houtbuf]⟩
  | some fd =>
    by_cases hlen : 127 < mpduLength fd
    · rw [exec_ser_oversize h hlen, exec_ser_oversize (hdesc.trans h) hlen]
      exact ⟨_, rfl, by rw [← hdraws, ← houtbuf]⟩
    · obtain ⟨bytes, hbytes, -, hser⟩ := exec_ser_fits h (Nat.le_of_not_lt hlen)
      obtain ⟨bytes', hbytes', -, hser'⟩ := exec_ser_fits (hdesc.trans h) (Nat.le_of_not_lt hlen)
      obtain rfl : bytes' = bytes := by rw [hbytes, hbytes', hlist]
      rw [hser, hser', hlist, houtbuf]
      exact ⟨_, rfl, rfl⟩

/-! ## Any command -/

/-- Every command reads nothing of the descriptor registers but what they decode to. -/
theorem exec_command_congr {i : Instr} {c : Byte} (hi : commandByte i = some c) {s u : State}
    (hdesc : desc u.d = desc s.d) (hpayload : u.payload = s.payload) (hdraws : u.draws = s.draws)
    (houtbuf : u.outbuf = s.outbuf) (houtlen : u.res.outlen = s.res.outlen) :
    ∃ t, exec i s = .next t
      ∧ exec i u = .next { u with res := t.res, outbuf := t.outbuf, draws := t.draws } := by
  by_cases hser : i = .ser
  · rw [hser]
    exact exec_ser_congr hdesc hpayload hdraws houtbuf
  · obtain ⟨out, -, hexec⟩ := exec_query_eq hi hser
    refine ⟨_, hexec s, ?_⟩
    simp only [hexec u, hdesc, State.afterCommand, houtlen, hdraws, houtbuf]

/-- The frame of a command (R172, R173). -/
theorem exec_command_frame {i : Instr} {c : Byte} (hi : commandByte i = some c) (s : State) :
    ∃ t, exec i s = .next t ∧ t = { s with res := t.res, outbuf := t.outbuf, draws := t.draws } ∧ t.res.cmd = c
      ∧ (i ≠ .ser → t.outbuf = s.outbuf ∧ t.draws = s.draws ∧ t.res.outlen = s.res.outlen) := by
  by_cases hser : i = .ser
  · subst hser
    cases hi
    rcases exec_ser_cases s with ⟨x, -, hexec⟩ | ⟨bytes, r, n, -, -, hexec⟩
    · exact ⟨_, hexec, rfl, rfl, fun h => absurd rfl h⟩
    · exact ⟨_, hexec, rfl, rfl, fun h => absurd rfl h⟩
  · obtain ⟨out, -, hexec⟩ := exec_query_eq hi hser
    exact ⟨_, hexec s, rfl, rfl, fun _ => ⟨rfl, rfl, rfl⟩⟩

/-- The outcome of a command is one of the five completions (R174). -/
theorem exec_command_status {i : Instr} {c : Byte} (hi : commandByte i = some c) (s : State) :
    ∃ t, exec i s = .next t ∧ (t.res.status = 0x10#8 ∨ t.res.result = 0#64
      ∧ (t.res.status = 0x00#8 ∨ t.res.status = 0x01#8 ∨ t.res.status = 0x02#8)) := by
  by_cases hser : i = .ser
  · subst hser
    rcases exec_ser_cases s with ⟨x, hx, hexec⟩ | ⟨bytes, r, n, -, -, hexec⟩
    · exact ⟨_, hexec, .inr ⟨rfl, .inr hx⟩⟩
    · exact ⟨_, hexec, .inl rfl⟩
  · obtain ⟨out, hout, hexec⟩ := exec_query_eq hi hser
    exact ⟨_, hexec s, (hout _).imp id fun ⟨hr, hx⟩ => ⟨hr, hx.imp id .inr⟩⟩

/-! ## Invalid descriptors (R176) -/

theorem kind_ge_five_iff (k : BitVec 3) : ¬k.toNat < 5 ↔ k = 5#3 ∨ k = 6#3 ∨ k = 7#3 := by
  have hk := k.isLt
  simp only [← BitVec.toNat_inj, BitVec.toNat_ofNat]
  omega

theorem desc_eq_none_iff (d : DescRegs) : desc d = none ↔
    (d.kind = 5#3 ∨ d.kind = 6#3 ∨ d.kind = 7#3 ∨ d.dmode = 0b01#2 ∨ d.smode = 0b01#2
      ∨ (d.shape = true ∧ (d.dmode = 0b00#2 ∨ d.smode = 0b00#2))) := by
  have hkind := kind_ge_five_iff d.kind
  rw [← Option.not_isSome_iff_eq_none, isSome_desc, DescRegs.valid_iff]
  tauto

end Sys2Proof.Machine

namespace Sys2Proof

open Sys2Proof.Machine

/-- Settles O24: the conditions under which the registers do not decode, and the BADDESC path on them. -/
theorem invalidDescriptorReportsBaddesc : Obligations.InvalidDescriptorReportsBaddesc := by
  refine ⟨desc_eq_none_iff, fun s i c hi hser h => ?_, fun s h => exec_ser_invalid h, fun s h => ?_⟩
  · obtain ⟨rule, hexec⟩ := exec_eq_runCommand hi
    rw [hexec, runCommand_of_desc_none h, State.badDesc_storeCmd (ne_serByte hi hser)]
    rfl
  · have hlocal : s.d.shape = true ∧ s.d.dmode = 0b00#2 := by
      rw [DescRegs.shape, DescRegs.dmode, h]
      decide
    rw [desc_eq_none_iff]
    tauto

/-- Settles O26: an illegal byte by its equation, a legal one by the command it decodes to. -/
theorem everyCommandOverwritesTheOutcome : Obligations.EveryCommandOverwritesTheOutcome := by
  intro s c
  cases hL : legalCommand c with
  | false =>
    rw [decodeCommand_of_illegal hL]
    exact ⟨_, exec_cmdx c s, rfl, by simp, fun _ => rfl, fun x r => ⟨_, exec_cmdx c _, rfl⟩⟩
  | true =>
    obtain ⟨i, hmem⟩ := (legalCommand_iff_exists_mem c).1 hL
    have hi := commandByte_of_mem hmem
    rw [decodeCommand_of_mem hmem]
    obtain ⟨t, ht, hframe, hcmd, -⟩ := exec_command_frame hi s
    obtain ⟨t', ht', hstatus⟩ := exec_command_status hi s
    obtain rfl : t = t' := Host.Outcome.next.inj (ht.symm.trans ht')
    refine ⟨t, ht, hcmd, ?_, fun hr => ?_, fun x r => ?_⟩
    · rcases hstatus with h | ⟨-, h | h | h⟩ <;> simp [h]
    · rcases hstatus with h | ⟨h, -⟩
      · simp [ResultRegs.rvalid, h] at hr
      · exact h
    · obtain ⟨t', ht', hu⟩ := exec_command_congr hi (s := s)
        (u := { s with res := { s.res with status := x, result := r } }) rfl rfl rfl rfl rfl
      obtain rfl : t = t' := Host.Outcome.next.inj (ht.symm.trans ht')
      exact ⟨_, hu, hframe.symm⟩

/-- Settles O27, by the frame of a command. -/
theorem commandsWriteOnlyTheirResults : Obligations.CommandsWriteOnlyTheirResults := fun s _ _ hi =>
  exec_command_frame hi s

end Sys2Proof

/-! # The codec commands on a valid descriptor (40_address_model.md R121, R122; 41_frame_codec.md R131, R142 to R160)

What the modes, the frame type, the frame control field and the lengths are in terms of the registers; the payload
list byte by byte; then the queries that report them, and SER. -/

namespace Sys2Proof.Machine

/-! ## The descriptor's fields in terms of the registers -/

theorem exists_desc_of_valid {d : DescRegs} (h : d.valid = true) : ∃ fd, desc d = some fd :=
  Option.isSome_iff_exists.1 ((isSome_desc d).trans h)

theorem desc_of_invalid {d : DescRegs} (h : d.valid = false) : desc d = none := by
  rw [← Option.isNone_iff_eq_none, ← Option.not_isSome, isSome_desc, h]
  rfl

/-- The modes of a decoded descriptor are not the invalid one (R73). -/
theorem modes_of_desc {d : DescRegs} {fd : FrameDesc} (h : desc d = some fd) :
    d.dmode ≠ 0b01#2 ∧ d.smode ≠ 0b01#2 ∧ (d.shape = true → d.dmode ≠ 0b00#2 ∧ d.smode ≠ 0b00#2) := by
  have hvalid : d.valid = true := by rw [← isSome_desc, h, Option.isSome_some]
  exact ((DescRegs.valid_iff d).1 hvalid).2

theorem modeOf_selectAddress {m : BitVec 2} (h : m ≠ 0b01#2) (raw : BitVec 64) : modeOf (selectAddress m raw) = m := by
  rcases mode_cases m with rfl | rfl | rfl | rfl
  · rfl
  · exact absurd rfl h
  · rfl
  · rfl

theorem destinationMode_of_desc {d : DescRegs} {fd : FrameDesc} (h : desc d = some fd) :
    destinationMode fd.addresses = d.dmode := by
  obtain ⟨hd, -, -⟩ := modes_of_desc h
  obtain ⟨-, hdest, -⟩ := accessors_of_desc h
  rw [destinationMode, hdest, modeOf_selectAddress hd]

theorem sourceMode_of_desc {d : DescRegs} {fd : FrameDesc} (h : desc d = some fd) :
    sourceMode fd.addresses = d.smode := by
  obtain ⟨-, hs, -⟩ := modes_of_desc h
  obtain ⟨-, -, hsource, -⟩ := accessors_of_desc h
  rw [sourceMode, hsource, modeOf_selectAddress hs]

theorem decodeFt_of_desc {d : DescRegs} {fd : FrameDesc} (h : desc d = some fd) :
    decodeFt d.kind d.ftraw = some fd.frameType := by
  rw [desc_eq] at h
  obtain ⟨ft, hft, h⟩ := Option.bind_eq_some_iff.1 h
  obtain ⟨ad, -, rfl⟩ := Option.map_eq_some_iff.1 h
  exact hft

theorem flags_of_desc {d : DescRegs} {fd : FrameDesc} (h : desc d = some fd) :
    fd.securityEnabled = d.sec ∧ fd.framePending = d.pend ∧ fd.acknowledgmentRequest = d.ar
      ∧ fd.sequenceNumber = d.seq := by
  rw [desc_eq] at h
  obtain ⟨ft, -, h⟩ := Option.bind_eq_some_iff.1 h
  obtain ⟨ad, -, rfl⟩ := Option.map_eq_some_iff.1 h
  exact ⟨rfl, rfl, rfl, rfl⟩

theorem ftCode_of_desc {d : DescRegs} {fd : FrameDesc} (h : desc d = some fd) :
    ftCode fd.frameType = if d.kind = 4#3 then d.ftraw.extractLsb' 0 3 else d.kind := by
  have hft := decodeFt_of_desc h
  rcases decodeFt_cases d.kind d.ftraw with ⟨hnone, -⟩ | ⟨t, hsome, -, hcode⟩
  · cases hnone.symm.trans hft
  · cases hsome.symm.trans hft
    exact hcode

/-! ## The frame control field (R136 to R138, R156) -/

/-- The two bytes as one field, from bit 15 down. -/
theorem frameControl_eq (fd : FrameDesc) : ((fcf1 fd).setWidth 16 <<< 8) ||| (fcf0 fd).setWidth 16 =
    sourceMode fd.addresses ++ 0#2 ++ destinationMode fd.addresses ++ 0#2 ++ 0#1
      ++ BitVec.ofBool (isWithinPan fd.addresses) ++ BitVec.ofBool fd.acknowledgmentRequest
      ++ BitVec.ofBool fd.framePending ++ BitVec.ofBool fd.securityEnabled ++ ftCode fd.frameType := by
  apply BitVec.eq_of_getLsbD_eq
  intro i hi
  simp only [BitVec.getLsbD_append]
  interval_cases i <;> simp [getElem_fcf0, getElem_fcf1]

/-! ## The lengths (R142, R146) -/

/-- The bytes of an address of each mode. -/
def modeLength (m : BitVec 2) : Nat := if m = 0b00#2 then 0 else if m = 0b10#2 then 2 else 8

theorem length_addrBytes_selectAddress (m : BitVec 2) (raw : BitVec 64) :
    (addrBytes (selectAddress m raw)).length = modeLength m := by
  unfold selectAddress modeLength
  split
  · rfl
  · split <;> rfl

theorem length_panBytes_ite (p : Prop) [Decidable p] (x : BitVec 16) :
    (panBytes (if p then none else some x)).length = if p then 0 else 2 := by
  split <;> rfl

/-- The three fields of ADDRCFG put together, its reserved bits 0 (10_state.md R21). -/
def addrcfgByte (shape : Bool) (dmode smode : BitVec 2) : Byte :=
  flagBit shape 0 ||| (dmode.setWidth 8 <<< 2) ||| (smode.setWidth 8 <<< 6)

theorem addrcfg_and_mask (d : DescRegs) : d.addrcfg &&& 0xCD#8 = addrcfgByte d.shape d.dmode d.smode := by
  ext i hi
  interval_cases i <;> simp [addrcfgByte, getElem_flagBit, DescRegs.shape, DescRegs.dmode, DescRegs.smode]

/-- The row of R142's table for each valid ADDRCFG. -/
theorem lookup_blockLengthTable : ∀ (shape : Bool) (dmode smode : BitVec 2), dmode ≠ 0b01#2 → smode ≠ 0b01#2 →
    (shape = true → dmode ≠ 0b00#2 ∧ smode ≠ 0b00#2) →
    blockLengthTable.lookup (addrcfgByte shape dmode smode) =
      some (modeLength dmode + (if dmode = 0b00#2 then 0 else 2) + modeLength smode
        + (if shape = true ∨ smode = 0b00#2 then 0 else 2)) := by
  decide

theorem addressBlockLength_of_desc {d : DescRegs} {fd : FrameDesc} (h : desc d = some fd) :
    blockLengthTable.lookup (d.addrcfg &&& 0xCD#8) = some (addressBlockLength fd.addresses) := by
  obtain ⟨hd, hs, hshape⟩ := modes_of_desc h
  obtain ⟨-, hdest, hsource, hdpan, hspan⟩ := accessors_of_desc h
  rw [addrcfg_and_mask, lookup_blockLengthTable _ _ _ hd hs hshape, addressBlockLength, addressBlock, hdest, hsource,
    hdpan, hspan]
  simp only [List.length_append, length_addrBytes_selectAddress, length_panBytes_ite]

/-! ## The payload list (30_encoding.md R75) -/

/-- How many of the `n` indices from `i` upwards have not been written since reset. -/
def unwrittenFrom (m : Memory) (i n : Nat) : Nat := (List.range' i n).countP fun j => (m.get? j).isNone

theorem unwrittenFrom_zero (m : Memory) (n : Nat) : unwrittenFrom m 0 n = unwrittenBefore m n := by
  rw [unwrittenFrom, unwrittenBefore, List.range_eq_range']

theorem unwrittenFrom_succ (m : Memory) (i n : Nat) :
    unwrittenFrom m i (n + 1) = unwrittenFrom m (i + 1) n + if (m.get? i).isNone then 1 else 0 := by
  rw [unwrittenFrom, List.range'_succ, List.countP_cons]
  rfl

theorem draws_payloadFrom (m : Memory) (n i k : Nat) : (payloadFrom m i k n).2 = k + unwrittenFrom m i n := by
  induction n generalizing i k with
  | zero => rfl
  | succ n ih =>
    rw [unwrittenFrom_succ, payloadFrom]
    cases m.get? i with
    | some b => simp [ih]
    | none => simp [ih]; omega

theorem getElem?_payloadFrom (m : Memory) (n i k j : Nat) (hj : j < n) : (payloadFrom m i k n).1[j]? =
    some ((m.get? (i + j)).getD (Config.draw (k + unwrittenFrom m i j))) := by
  induction n generalizing i k j with
  | zero => omega
  | succ n ih =>
    rw [payloadFrom]
    cases j with
    | zero => cases m.get? i <;> simp [unwrittenFrom]
    | succ j =>
      rw [unwrittenFrom_succ, show i + (j + 1) = i + 1 + j by omega]
      cases m.get? i with
      | some b => simp [ih (i + 1) k j (by omega)]
      | none => simp [ih (i + 1) (k + 1) j (by omega), Nat.add_assoc, Nat.add_comm]

theorem mpduLength_le_of_desc {d : DescRegs} {fd : FrameDesc} (h : desc d = some fd) : mpduLength fd ≤ 280 := by
  have hlen := mpduLength_of_desc h
  have hblock := addressBlockLength_le fd.addresses
  have hplen := d.plen.isLt
  omega

/-! ## A second SER (R160) -/

/-- A payload whose bytes have all been written takes no draw. -/
theorem draws_payloadList_of_ready {s : State} {n : Nat} (h : ∀ i < n, s.pw i = true) :
    (s.payloadList n).2 = s.draws := by
  obtain ⟨hdraws, -⟩ := payloadFrom_written s.payload n 0 s.draws fun j _ hj => h j (by omega)
  exact hdraws

/-- Bytes stored twice at the same place leave what they leave stored once. -/
theorem Memory.get?_setFrom_twice (m : Memory) (bs : List Byte) (a i : Nat) :
    ((m.setFrom a bs).setFrom a bs).get? i = (m.setFrom a bs).get? i := by
  rw [Memory.get?_setFrom, Memory.get?_setFrom]
  split <;> rfl

end Sys2Proof.Machine

namespace Sys2Proof

open Sys2Proof.Machine

/-! ## The queries -/

/-- Settles O29: DMODE is the destination mode of what the registers decode to. -/
theorem qdmodeReportsTheDestinationMode : Obligations.QdmodeReportsTheDestinationMode := by
  refine ⟨by decide, fun s => ?_⟩
  rw [exec_qdmode]
  obtain ⟨hvalid, hinvalid⟩ := runCommand_query (s := s) (c := 0x11#8) (by decide)
    (rule := fun fd t => t.complete (destinationMode fd.addresses))
    (t := s.afterCommand 0x11#8 0x10#8 (s.d.dmode.setWidth 64))
    fun fd h => by rw [destinationMode_of_desc h, State.complete_storeCmd]
  refine ⟨fun h => ⟨hvalid h, fun hshape => ?_⟩, hinvalid⟩
  obtain ⟨-, -, -, hlocal⟩ := (DescRegs.valid_iff s.d).1 h
  exact (hlocal hshape).1

/-- Settles O30: SMODE is the source mode of what the registers decode to. -/
theorem qsmodeReportsTheSourceMode : Obligations.QsmodeReportsTheSourceMode := by
  refine ⟨by decide, fun s => ?_⟩
  rw [exec_qsmode]
  refine runCommand_query (by decide) fun fd h => ?_
  rw [sourceMode_of_desc h, State.complete_storeCmd]

/-- Settles O35, by the type code of the decoded KIND. -/
theorem qftypeReportsTheTypeCode : Obligations.QftypeReportsTheTypeCode := by
  refine ⟨by decide, fun s => ?_⟩
  rw [exec_qftype]
  refine runCommand_query (by decide) fun fd h => ?_
  rw [ftCode_of_desc h, State.complete_storeCmd, apply_ite (BitVec.setWidth 64)]

/-- Settles O36: the field as `frameControl_eq` puts it together, each part in terms of the registers. -/
theorem qfcfReportsTheFrameControl : Obligations.QfcfReportsTheFrameControl := by
  refine ⟨by decide, fun s => ?_⟩
  rw [exec_qfcf]
  refine runCommand_query (by decide) fun fd h => ?_
  obtain ⟨hshape, -⟩ := accessors_of_desc h
  obtain ⟨hsec, hpend, har, -⟩ := flags_of_desc h
  rw [frameControl_eq, sourceMode_of_desc h, destinationMode_of_desc h, ftCode_of_desc h, hshape, hsec, hpend, har,
    State.complete_storeCmd]

/-- Settles O37: the block's length is its entry of the table. -/
theorem qablenReportsTheBlockLength : Obligations.QablenReportsTheBlockLength := by
  refine ⟨by decide, fun s => ⟨fun hvalid => ?_, fun hinvalid => ?_⟩⟩
  · obtain ⟨fd, h⟩ := exists_desc_of_valid hvalid
    refine ⟨fd, _, h, rfl, addressBlockLength_of_desc h, ?_⟩
    rw [exec_qablen, runCommand_of_desc h, State.complete_storeCmd, BitVec.setWidth_eq]
    rfl
  · rw [exec_qablen, runCommand_of_desc_none (desc_of_invalid hinvalid), State.badDesc_storeCmd (by decide)]

/-- Settles O38: the sum of R146 with the block's entry of the table. -/
theorem qmlenReportsTheExactLength : Obligations.QmlenReportsTheExactLength := by
  refine ⟨by decide, fun s => ⟨fun hvalid => ?_, fun hinvalid => ?_⟩⟩
  · obtain ⟨fd, h⟩ := exists_desc_of_valid hvalid
    have hlen : mpduLength fd = 5 + (addressBlock fd.addresses).length + s.d.plen.toNat := by
      have hsum := mpduLength_of_desc h
      rw [addressBlockLength] at hsum
      omega
    refine ⟨fd, _, h, rfl, addressBlockLength_of_desc h, hlen, mpduLength_le_of_desc h, ?_⟩
    rw [exec_qmlen, runCommand_of_desc h, State.complete_storeCmd, BitVec.setWidth_eq, hlen]
  · rw [exec_qmlen, runCommand_of_desc_none (desc_of_invalid hinvalid), State.badDesc_storeCmd (by decide)]

/-- Settles O40, code by code. -/
theorem frameTypeCodes : Obligations.FrameTypeCodes :=
  ⟨rfl, rfl, rfl, rfl, fun _ => rfl, by decide, by decide, by decide⟩

/-! ## The payload and SER -/

/-- Settles O43, from the facts about a list from any index. -/
theorem payloadListIsPayloadOrDraws : Obligations.PayloadListIsPayloadOrDraws := by
  refine fun s n => ⟨length_payloadFrom _ _ _ _, ?_, fun i hi => ?_⟩
  · rw [State.payloadList, draws_payloadFrom, unwrittenFrom_zero]
  · rw [State.payloadList, getElem?_payloadFrom _ _ _ _ _ hi, unwrittenFrom_zero, Nat.zero_add]

/-- Settles O44, by the three ways SER ends; the stored bytes by `Memory.get?_setFrom`. -/
theorem serWritesTheMpdu : Obligations.SerWritesTheMpdu := by
  refine ⟨by decide, fun s => ?_⟩
  cases h : desc s.d with
  | none => exact exec_ser_invalid h
  | some fd =>
    dsimp only
    split
    case isTrue hlen => exact exec_ser_oversize h hlen
    case isFalse hlen =>
      obtain ⟨bytes, hbytes, hcount, hser⟩ := exec_ser_fits h (Nat.le_of_not_lt hlen)
      have hsum := mpduLength_of_desc h
      have hpayload := payloadLength_of_desc h
      refine ⟨_, bytes, hser, hbytes, hcount, by omega, by omega, by omega, fun i hi => ?_, fun i hi => ?_, rfl, rfl⟩
      · rw [Memory.get?_setFrom, if_pos (by omega), Nat.sub_zero]
      · rw [Memory.get?_setFrom, if_neg (by omega)]

/-- Settles O46: the limit on the sum of R146 as a limit on PLEN. -/
theorem payloadLimits : Obligations.PayloadLimits := by
  intro s hvalid
  obtain ⟨fd, h⟩ := exists_desc_of_valid hvalid
  have hsum := mpduLength_of_desc h
  refine ⟨?_, fun hplen => exec_ser_oversize h (by omega)⟩
  by_cases hlen : 127 < mpduLength fd
  · exact ⟨_, _, addressBlockLength_of_desc h, exec_ser_oversize h hlen, iff_of_false (by simp) (by omega)⟩
  · obtain ⟨bytes, -, -, hser⟩ := exec_ser_fits h (Nat.le_of_not_lt hlen)
    exact ⟨_, _, addressBlockLength_of_desc h, hser, iff_of_true rfl (by omega)⟩

/-- Settles O47: the first SER leaves the descriptor, the payload and the draws, so the second stores the same
bytes. -/
theorem secondSerGivesTheSameBytes : Obligations.SecondSerGivesTheSameBytes := by
  intro s t hready ht
  cases h : desc s.d with
  | none =>
    cases ht.symm.trans (exec_ser_invalid h)
    exact ⟨_, exec_ser_invalid h, rfl, rfl, fun _ => rfl⟩
  | some fd =>
    by_cases hlen : 127 < mpduLength fd
    · cases ht.symm.trans (exec_ser_oversize h hlen)
      exact ⟨_, exec_ser_oversize h hlen, rfl, rfl, fun _ => rfl⟩
    · obtain ⟨bytes, hbytes, -, hser⟩ := exec_ser_fits h (Nat.le_of_not_lt hlen)
      have hdraws : (s.payloadList fd.payloadLength).2 = s.draws :=
        draws_payloadList_of_ready (by rwa [payloadLength_of_desc h])
      rw [hdraws] at hser
      have hnext := Host.Outcome.next.inj (ht.symm.trans hser)
      have hd : desc t.d = some fd := by rw [hnext]; exact h
      have hlist : t.payloadList fd.payloadLength = s.payloadList fd.payloadLength := by rw [hnext]; rfl
      obtain ⟨bytes', hbytes', -, hser'⟩ := exec_ser_fits hd (Nat.le_of_not_lt hlen)
      obtain rfl : bytes' = bytes := by rw [hbytes', hlist, hbytes]
      rw [hlist, hdraws] at hser'
      refine ⟨_, hser', by rw [hnext], by rw [hnext], fun i => ?_⟩
      rw [hnext]
      exact Memory.get?_setFrom_twice _ _ _ i

/-- Settles O9: the registers after reset decode to an empty Beacon, and SER is evaluated on them. -/
theorem serRightAfterReset : Obligations.SerRightAfterReset :=
  ⟨by decide, rfl, rfl⟩

/-- Settles O48: the run is evaluated. -/
theorem sourceExampleFrame : Obligations.SourceExampleFrame :=
  ⟨_, rfl, by decide, by decide⟩

end Sys2Proof

/-! # The data model behind the registers (30_encoding.md R76)

A described frame decodes to itself; two descriptors decode alike exactly when they differ only in what R76 lists; a
frame is its descriptor with a payload. From this: the registers cover the data model, commands do not depend on
unused fields, and SER emits the source's serialization. -/

namespace Sys2Proof.Machine

/-! ## A described descriptor decodes to itself -/

theorem kind_describe (fd : FrameDesc) : (describe fd).kind = kindOf fd.frameType := by
  ext i hi
  have h8 : i < 8 := by omega
  simp [describe, DescRegs.kind, hi, h8]

theorem decodeFt_describe (fd : FrameDesc) :
    decodeFt (describe fd).kind (describe fd).ftraw = some fd.frameType := by
  rw [kind_describe, describe]
  cases fd.frameType <;> rfl

theorem flags_describe (fd : FrameDesc) : (describe fd).sec = fd.securityEnabled
    ∧ (describe fd).pend = fd.framePending ∧ (describe fd).ar = fd.acknowledgmentRequest := by
  simp [describe, DescRegs.sec, DescRegs.pend, DescRegs.ar, getElem_flagBit]

theorem shape_describe (fd : FrameDesc) : (describe fd).shape = isWithinPan fd.addresses := by
  simp [describe, DescRegs.shape, addrcfgOf]

theorem dmode_describe (fd : FrameDesc) : (describe fd).dmode = destinationMode fd.addresses := by
  ext i hi
  interval_cases i <;> simp [describe, DescRegs.dmode, addrcfgOf]

theorem smode_describe (fd : FrameDesc) : (describe fd).smode = sourceMode fd.addresses := by
  ext i hi
  interval_cases i <;> simp [describe, DescRegs.smode, addrcfgOf]

/-- A register holding an address, with its mode, gives the address back (R72). -/
theorem decodeAddress_modeOf (o : Option Address) :
    decodeAddress (modeOf o) ((o.map addressValue).getD 0#64) = o.elim .absent .present := by
  rcases o with _ | x | x
  · rfl
  · have hx : (x.setWidth 64).extractLsb' 0 16 = x := by
      ext i hi
      have h64 : i < 64 := by omega
      simp [hi, h64]
    exact congrArg (fun y => AddressOperand.present (.short y)) hx
  · rfl

theorem decodeAddresses_describe (fd : FrameDesc) : decodeAddresses (describe fd) = some fd.addresses := by
  rw [decodeAddresses, shape_describe, dmode_describe, smode_describe]
  simp only [describe, destinationMode, sourceMode, decodeAddress_modeOf]
  rcases fd.addresses with ⟨s, d⟩ | ⟨_ | s, _ | d⟩ <;> rfl

theorem desc_describe (fd : FrameDesc) (h : fd.payloadLength < 256) : desc (describe fd) = some fd := by
  obtain ⟨hsec, hpend, har⟩ := flags_describe fd
  have hplen : (describe fd).plen.toNat = fd.payloadLength := by
    rw [describe, BitVec.toNat_ofNat, Nat.mod_eq_of_lt h]
  rw [desc_eq, decodeFt_describe, decodeAddresses_describe, hsec, hpend, har, hplen]
  rfl

/-! ## What the decoder does not read (R73, R76) -/

theorem decodeAddress_congr {m : BitVec 2} {x y : BitVec 64}
    (hshort : m = 0b10#2 → x.extractLsb' 0 16 = y.extractLsb' 0 16) (hlong : m = 0b11#2 → x = y) :
    decodeAddress m x = decodeAddress m y := by
  rcases mode_cases m with rfl | rfl | rfl | rfl
  · rfl
  · rfl
  · exact congrArg (fun z => AddressOperand.present (.short z)) (hshort rfl)
  · rw [hlong rfl]

theorem decodeAddress_eq_absent {m : BitVec 2} {x : BitVec 64} : decodeAddress m x = .absent ↔ m = 0b00#2 := by
  rcases mode_cases m with rfl | rfl | rfl | rfl <;> simp [decodeAddress]

theorem joinAddresses_congr {b : Bool} {p p' q q' : BitVec 16} {o o' : AddressOperand}
    (hp : o ≠ .absent → p = p') (hq : o' ≠ .absent → b = false → q = q') :
    joinAddresses b p q o o' = joinAddresses b p' q' o o' := by
  cases o with
  | invalid => rfl
  | absent =>
    cases o' with
    | invalid | absent => rfl
    | present x =>
      cases b with
      | true => rfl
      | false => rw [hq nofun rfl]; rfl
  | present x =>
    rw [hp nofun]
    cases o' with
    | invalid | absent => rfl
    | present y =>
      cases b with
      | true => rfl
      | false => rw [hq nofun rfl]

theorem decodeFt_congr {k : BitVec 3} {x y : Byte} (h : k = 4#3 → x = y) : decodeFt k x = decodeFt k y := by
  by_cases hk : k = 4#3
  · rw [h hk]
  · simp only [decodeFt, if_neg hk]

theorem desc_eq_of_sameUsed {d e : DescRegs} (h : d.sameUsed e) : desc d = desc e := by
  obtain ⟨hkind, hraw, hsec, hpend, har, hseq, hplen, hshape, hdmode, hsmode, hdshort, hdlong, hsshort, hslong, hdpan,
    hspan⟩ := h
  have hft := decodeFt_congr hraw
  have hdest := decodeAddress_congr hdshort hdlong
  have hsource := decodeAddress_congr hsshort hslong
  have hjoin : decodeAddresses d = decodeAddresses e := by
    rw [decodeAddresses, decodeAddresses, ← hshape, ← hdmode, ← hsmode, ← hdest, ← hsource]
    exact joinAddresses_congr (fun hne => hdpan fun h0 => hne (decodeAddress_eq_absent.2 h0))
      fun hne => hspan fun h0 => hne (decodeAddress_eq_absent.2 h0)
  rw [desc_eq, desc_eq, hjoin, ← hkind, hft, hsec, hpend, har, hseq, hplen]

/-- The registers of a frame type, recovered from it. -/
theorem kindOf_of_decodeFt {k : BitVec 3} {raw : Byte} {t : FrameType} (h : decodeFt k raw = some t) :
    kindOf t = k ∧ (k = 4#3 → rawOf t = raw) := by
  unfold decodeFt at h
  split_ifs at h with h0 h1 h2 h3 h4 <;> cases h
  · exact ⟨h0.symm, by rw [h0]; nofun⟩
  · exact ⟨h1.symm, by rw [h1]; nofun⟩
  · exact ⟨h2.symm, by rw [h2]; nofun⟩
  · exact ⟨h3.symm, by rw [h3]; nofun⟩
  · exact ⟨h4.symm, fun _ => rfl⟩

theorem selectAddress_inj {m : BitVec 2} {x y : BitVec 64} (h : selectAddress m x = selectAddress m y) :
    (m = 0b10#2 → x.extractLsb' 0 16 = y.extractLsb' 0 16) ∧ (m = 0b11#2 → x = y) := by
  refine ⟨?_, ?_⟩
  · rintro rfl
    simpa [selectAddress] using h
  · rintro rfl
    simpa [selectAddress] using h

theorem sameUsed_of_desc {d e : DescRegs} {fd : FrameDesc} (hd : desc d = some fd) (he : desc e = some fd) :
    d.sameUsed e := by
  obtain ⟨hkind, hraw⟩ := kindOf_of_decodeFt (decodeFt_of_desc hd)
  obtain ⟨hkind', hraw'⟩ := kindOf_of_decodeFt (decodeFt_of_desc he)
  obtain ⟨hsec, hpend, har, hseq⟩ := flags_of_desc hd
  obtain ⟨hsec', hpend', har', hseq'⟩ := flags_of_desc he
  obtain ⟨hshape, hdest, hsource, hdpan, hspan⟩ := accessors_of_desc hd
  obtain ⟨hshape', hdest', hsource', hdpan', hspan'⟩ := accessors_of_desc he
  have hk : d.kind = e.kind := hkind.symm.trans hkind'
  have hplen := (payloadLength_of_desc hd).symm.trans (payloadLength_of_desc he)
  have hsh : d.shape = e.shape := hshape.symm.trans hshape'
  have hdm : d.dmode = e.dmode := (destinationMode_of_desc hd).symm.trans (destinationMode_of_desc he)
  have hsm : d.smode = e.smode := (sourceMode_of_desc hd).symm.trans (sourceMode_of_desc he)
  rw [hdm] at hdest hdpan
  rw [hsm] at hsource
  rw [hsm, hsh] at hspan
  obtain ⟨hdshort, hdlong⟩ := selectAddress_inj (hdest.symm.trans hdest')
  obtain ⟨hsshort, hslong⟩ := selectAddress_inj (hsource.symm.trans hsource')
  refine ⟨hk, fun h4 => (hraw h4).symm.trans (hraw' (hk ▸ h4)), hsec.symm.trans hsec', hpend.symm.trans hpend',
    har.symm.trans har', hseq.symm.trans hseq', BitVec.eq_of_toNat_eq hplen, hsh, hdm, hsm, hdm ▸ hdshort,
    hdm ▸ hdlong, hsm ▸ hsshort, hsm ▸ hslong, fun h0 => ?_, fun h0 hfull => ?_⟩
  · simpa [hdm ▸ h0] using hdpan.symm.trans hdpan'
  · simpa [hsm ▸ h0, hsh ▸ hfull] using hspan.symm.trans hspan'

/-! ## Frames (30_encoding.md R70, R75) -/

/-- The frame of a descriptor with the payload in place of its length. -/
def FrameDesc.withPayload (fd : FrameDesc) (p : List Byte) : Frame :=
  { frameType := fd.frameType
    securityEnabled := fd.securityEnabled
    framePending := fd.framePending
    acknowledgmentRequest := fd.acknowledgmentRequest
    sequenceNumber := fd.sequenceNumber
    addresses := fd.addresses
    payload := p }

theorem desc_withPayload {fd : FrameDesc} {p : List Byte} (h : p.length = fd.payloadLength) :
    (fd.withPayload p).desc = fd := by
  rw [FrameDesc.withPayload, Frame.desc, h]

/-- Two descriptors give one frame exactly when they and the payloads are the same. -/
theorem withPayload_inj {fd fe : FrameDesc} {p q : List Byte} (hp : p.length = fd.payloadLength)
    (hq : q.length = fe.payloadLength) : fd.withPayload p = fe.withPayload q ↔ fd = fe ∧ p = q := by
  refine ⟨fun h => ⟨?_, congrArg Frame.payload h⟩, fun ⟨h, h'⟩ => by rw [h, h']⟩
  rw [← desc_withPayload hp, h, desc_withPayload hq]

theorem frame_eq_some {s : State} {fd : FrameDesc} (h : desc s.d = some fd) (hcap : fd.payloadLength ≤ 122)
    (hready : ∀ i < fd.payloadLength, s.pw i = true) :
    s.frame = some (fd.withPayload (s.payloadList fd.payloadLength).1) := by
  have hall : (List.range fd.payloadLength).all (fun i => (s.payload.get? i).isSome) = true := by
    rw [List.all_eq_true]
    exact fun i hi => hready i (List.mem_range.1 hi)
  simp only [State.frame, h, hall, Bool.and_true, Config.payloadCap, hcap, decide_true, if_true]
  rfl

theorem frame_ne_none {s : State} (hs : s.frame ≠ none) :
    ∃ fd, desc s.d = some fd ∧ (∀ i < fd.payloadLength, s.pw i = true)
      ∧ s.frame = some (fd.withPayload (s.payloadList fd.payloadLength).1) := by
  cases h : desc s.d with
  | none => exact absurd (by simp only [State.frame, h]) hs
  | some fd =>
    simp only [State.frame, h] at hs ⊢
    split at hs
    · next hcond =>
      obtain ⟨-, hall⟩ := Bool.and_eq_true_iff.1 hcond
      refine ⟨fd, rfl, fun i hi => List.all_eq_true.1 hall i (List.mem_range.2 hi), ?_⟩
      rw [if_pos hcond]
      rfl
    · exact absurd rfl hs

theorem length_payloadList (s : State) (n : Nat) : (s.payloadList n).1.length = n := length_payloadFrom _ _ _ _

/-- A fully written payload list is the bytes of the RAM. -/
theorem getElem?_payloadList {s : State} {n : Nat} (h : ∀ i < n, s.pw i = true) {i : Nat} (hi : i < n) :
    (s.payloadList n).1[i]? = s.payload.get? i := by
  obtain ⟨-, hbytes⟩ := payloadFrom_written s.payload n 0 s.draws fun j _ hj => h j (by omega)
  rw [State.payloadList, hbytes i hi, Nat.zero_add]

/-- A payload list is any list of its length that the RAM holds. -/
theorem payloadList_eq {s : State} {bs : List Byte} (h : ∀ i < bs.length, s.payload.get? i = bs[i]?) :
    (s.payloadList bs.length).1 = bs := by
  have hready : ∀ i < bs.length, s.pw i = true := fun i hi => by rw [State.pw, h i hi, List.getElem?_eq_getElem hi]; rfl
  apply List.ext_getElem?
  intro i
  by_cases hi : i < bs.length
  · rw [getElem?_payloadList hready hi, h i hi]
  · rw [List.getElem?_eq_none (by rw [length_payloadList]; omega), List.getElem?_eq_none (by omega)]

/-- Two fully written payloads of one length give the same list exactly when their bytes agree. -/
theorem payloadList_eq_iff {s t : State} {n : Nat} (hs : ∀ i < n, s.pw i = true) (ht : ∀ i < n, t.pw i = true) :
    (s.payloadList n).1 = (t.payloadList n).1 ↔ ∀ i < n, s.payload.get? i = t.payload.get? i := by
  refine ⟨fun h i hi => ?_, fun h => ?_⟩
  · rw [← getElem?_payloadList hs hi, h, getElem?_payloadList ht hi]
  · have hlen := length_payloadList t n
    have hlist := payloadList_eq (s := s) (bs := (t.payloadList n).1) fun i hi => by
      rw [hlen] at hi
      rw [getElem?_payloadList ht hi, h i hi]
    rwa [hlen] at hlist

/-! ## The state in which a frame is described (R76) -/

theorem desc_withFrame (s : State) {f : Frame} (h : f.payload.length ≤ 122) :
    desc (s.withFrame f).d = some f.desc :=
  desc_describe f.desc (Nat.lt_of_le_of_lt h (by decide))

theorem get?_withFrame (s : State) (f : Frame) {i : Nat} (hi : i < f.payload.length) :
    (s.withFrame f).payload.get? i = f.payload[i]? := by
  rw [State.withFrame, Memory.get?_setFrom, if_pos (by omega), Nat.sub_zero]

theorem pw_withFrame (s : State) (f : Frame) {i : Nat} (hi : i < f.payload.length) : (s.withFrame f).pw i = true := by
  rw [State.pw, get?_withFrame s f hi, List.getElem?_eq_getElem hi]
  rfl

theorem payloadList_withFrame (s : State) (f : Frame) :
    ((s.withFrame f).payloadList f.payload.length).1 = f.payload :=
  payloadList_eq fun _ hi => get?_withFrame s f hi

/-! ## The source's serialization (41_frame_codec.md R147, R150) -/

theorem serializeFrame_oversize {f : Frame} (h : 127 < mpduLength f.desc) : serializeFrame f = none :=
  if_pos h

theorem serializeFrame_fits {f : Frame} (h : mpduLength f.desc ≤ 127) : serializeFrame f =
    some (headerBytes f.desc ++ addressBlock f.addresses ++ f.payload, mpduLength f.desc) :=
  if_neg (Nat.not_lt.2 h)

end Sys2Proof.Machine

namespace Sys2Proof

open Sys2Proof.Machine

/-- Settles O49: a described frame decodes to itself, and equal frames are equal descriptors with equal payloads. -/
theorem registersCoverTheDataModel : Obligations.RegistersCoverTheDataModel := by
  refine ⟨fun s f hcap => ⟨desc_withFrame s hcap, ?_⟩, fun s t hs ht => ?_⟩
  · rw [frame_eq_some (desc_withFrame s hcap) hcap fun i hi => pw_withFrame s f hi]
    exact congrArg (fun p => some (f.desc.withPayload p)) (payloadList_withFrame s f)
  · obtain ⟨fd, hd, hready, hframe⟩ := frame_ne_none hs
    obtain ⟨fe, he, hready', hframe'⟩ := frame_ne_none ht
    rw [hframe, hframe', Option.some_inj, withPayload_inj (length_payloadList _ _) (length_payloadList _ _),
      ← payloadLength_of_desc hd]
    refine ⟨?_, fun ⟨hused, hbytes⟩ => ?_⟩
    · rintro ⟨rfl, hlist⟩
      exact ⟨sameUsed_of_desc hd he, (payloadList_eq_iff hready hready').1 hlist⟩
    · obtain rfl : fd = fe := Option.some.inj (hd.symm.trans ((desc_eq_of_sameUsed hused).trans he))
      exact ⟨rfl, (payloadList_eq_iff hready hready').2 hbytes⟩

/-- Settles O50: descriptors that differ in unused fields decode alike, and a command reads no more. -/
theorem unusedFieldsHaveNoEffect : Obligations.UnusedFieldsHaveNoEffect := by
  intro s e i c hi hused
  obtain ⟨t, ht, hu⟩ := exec_command_congr hi (s := s) (u := { s with d := e }) (desc_eq_of_sameUsed hused).symm
    rfl rfl rfl rfl
  obtain ⟨t', ht', hframe, -⟩ := exec_command_frame hi s
  obtain rfl : t = t' := Host.Outcome.next.inj (ht.symm.trans ht')
  exact ⟨t, _, ht, hu, by rw [hframe]⟩

/-- Settles O51: the described frame decodes to itself with its own payload, so SER stores its serialization. -/
theorem serEmitsTheSourceFrame : Obligations.SerEmitsTheSourceFrame := by
  intro s f hcap
  have hdesc := desc_withFrame s hcap
  by_cases hlen : 127 < mpduLength f.desc
  · rw [serializeFrame_oversize hlen]
    exact ⟨_, exec_ser_oversize hdesc hlen, rfl, rfl, rfl, rfl⟩
  · obtain ⟨bytes, hbytes, hcount, hser⟩ := exec_ser_fits hdesc (Nat.le_of_not_lt hlen)
    have hsource : bytes = headerBytes f.desc ++ addressBlock f.addresses ++ f.payload :=
      hbytes.trans (congrArg (_ ++ ·) (payloadList_withFrame s f))
    rw [serializeFrame_fits (Nat.le_of_not_lt hlen), ← hsource]
    have houtlen : (BitVec.ofNat 8 bytes.length).toNat = bytes.length := by
      rw [BitVec.toNat_ofNat]
      omega
    have hstored : ∀ i < bytes.length, ((s.withFrame f).outbuf.setFrom 0 bytes).get? i = bytes[i]? := fun i hi => by
      rw [Memory.get?_setFrom, if_pos (by omega), Nat.sub_zero]
    refine ⟨_, hser, rfl, ?_, houtlen, hcount, hstored, fun i hi b hb => ?_⟩
    · simp only [BitVec.toNat_ofNat]
      omega
    · exact exec_rd_outbuf (by omega) (hi.trans_eq houtlen.symm) ((hstored i hi).trans hb)

end Sys2Proof

/-! # Whole-machine rules

What one bus word can do, said once: it violates the host contract and faults with the kind of the violation
(60_exceptions.md R205), or it completes in one of five ways. Every rule about a step, and the invariant, is a case
analysis of that. -/

namespace Sys2Proof.Machine

/-! ## The outcome of a bus word -/

/-- The ways a bus word completes: a read, a PAYLOAD write, a register write, a command, an illegal command byte. -/
inductive Completed (w : BusWord) (s : State) : State → Prop where
  | read (o : Option Byte) : Completed w s (s.respond o)
  | payload {i : Nat} (hi : i < Config.payloadCap) : Completed w s (s.writePayload i w.data)
  | register (hw : w.isWrite = true) (hl : (locate w.off).isDescriptor = true) :
      Completed w s (s.writeReg (locate w.off) w.data)
  | command {i : Instr} {c : Byte} {t : State} (hw : w = busWrite 0x000#9 c) (hi : commandByte i = some c)
      (h : exec i s = .next t) : Completed w s t
  | illegal {c : Byte} (hw : w = busWrite 0x000#9 c) (hL : legalCommand c = false) :
      Completed w s { s with res := { s.res with cmd := c, status := 0x03#8, result := 0#64 } }

theorem violates_of_unmapped {w : BusWord} (h : locate w.off = .unmapped) (s : State) : s.violates w .unmapped :=
  (locate_eq_unmapped_iff w.off).1 h

theorem exec_read_cases {w : BusWord} (hW : w.isWrite = false) (s : State) :
    (∃ k, s.violates w k ∧ exec (decode w) s = s.raise k)
      ∨ ∃ t, exec (decode w) s = .next t ∧ Completed w s t := by
  rw [decode_of_read hW]
  rcases execRd_cases w.off s with ⟨hl, hrd⟩ | ⟨i, hl, hi, hrd⟩ | ⟨-, -, hrd⟩
  · exact .inl ⟨_, violates_of_unmapped hl s, hrd⟩
  · obtain ⟨hoff, hbound⟩ := toNat_of_locate_outbuf hl
    exact .inl ⟨.outIndex, ⟨hW, by omega, by omega⟩, hrd⟩
  · exact .inr ⟨_, hrd, .read _⟩

theorem exec_write_cases {w : BusWord} (hW : w.isWrite = true) (hO : w.off ≠ 0#9) (s : State) :
    (∃ k, s.violates w k ∧ exec (decode w) s = s.raise k)
      ∨ ∃ t, exec (decode w) s = .next t ∧ Completed w s t := by
  rw [decode_of_write hW hO]
  obtain ⟨hcmd, hpayload, -⟩ := locate_bounds w.off
  rcases (locate w.off).kinds with hl | hl | hl | ⟨i, hl⟩ | hl
  · exact absurd (hcmd hl) hO
  · exact .inl ⟨_, violates_of_unmapped hl s, exec_wr_unmapped hl _ s⟩
  · exact .inl ⟨.roWrite, ⟨hW, (isReadOnly_locate w.off).1 hl⟩, exec_wr_readOnly hl _ s⟩
  · exact .inr ⟨_, exec_wr_payload hl _ s, .payload (hpayload i hl)⟩
  · exact .inr ⟨_, exec_wr_descriptor hl _ s, .register hW hl⟩

theorem exec_commandWord_completes {w : BusWord} {c : Byte} (hw : w = busWrite 0x000#9 c) (s : State) :
    ∃ t, exec (decode w) s = .next t ∧ Completed w s t := by
  rw [hw, decode_busWrite_cmd]
  cases hL : legalCommand c with
  | false =>
    rw [decodeCommand_of_illegal hL]
    exact ⟨_, exec_cmdx c s, .illegal rfl hL⟩
  | true =>
    obtain ⟨i, hmem⟩ := (legalCommand_iff_exists_mem c).1 hL
    rw [decodeCommand_of_mem hmem]
    obtain ⟨t, ht, -⟩ := exec_command_frame (commandByte_of_mem hmem) s
    exact ⟨t, ht, .command rfl (commandByte_of_mem hmem) ht⟩

theorem exec_decode_cases (w : BusWord) (s : State) :
    (∃ k, s.violates w k ∧ exec (decode w) s = s.raise k)
      ∨ ∃ t, exec (decode w) s = .next t ∧ Completed w s t := by
  cases hW : w.isWrite with
  | false => exact exec_read_cases hW s
  | true =>
    by_cases hO : w.off = 0#9
    · exact .inr (exec_commandWord_completes (hO ▸ (busWrite_off_data hW).symm) s)
    · exact exec_write_cases hW hO s

/-- Every violation of the host contract faults with its kind (60_exceptions.md R205). -/
theorem exec_of_violates {w : BusWord} {s : State} {k : FaultKind} (h : s.violates w k) :
    exec (decode w) s = s.raise k := by
  cases k with
  | unmapped =>
    have hl := (locate_eq_unmapped_iff w.off).2 h
    cases hW : w.isWrite with
    | false => rw [decode_of_read hW, exec_rd_unmapped hl]
    | true =>
      have hO : w.off ≠ 0#9 := fun h0 => by rw [h0] at hl; cases hl
      rw [decode_of_write hW hO, exec_wr_unmapped hl]
  | roWrite =>
    obtain ⟨hW, hro⟩ := h
    have hl := (isReadOnly_locate w.off).2 hro
    have hO : w.off ≠ 0#9 := fun h0 => by rw [h0] at hl; cases hl
    rw [decode_of_write hW hO, exec_wr_readOnly hl]
  | outIndex =>
    obtain ⟨hW, hlow, hhigh⟩ := h
    have hl : locate w.off = .outbuf (w.off.toNat - 0x180) := by
      rw [← locateNat_outbuf _ (by omega), Nat.add_sub_cancel' (by omega)]
      rfl
    rw [decode_of_read hW, exec_rd_outIndex hl (by omega)]

/-! ## The outcome of a step -/

theorem step_next {s t : State} (h : step s = .next t) :
    t = s ∨ (∃ rest, s.host = .rst :: rest ∧ t = ({ s with host := rest } : State).applyReset)
      ∨ ∃ w rest, s.host = .bus w :: rest ∧ Completed w { s with host := rest } t := by
  rcases step_cases s with ⟨-, hstep⟩ | ⟨w, rest, hhost, hstep⟩ | ⟨rest, hhost, hstep⟩
  · cases h.symm.trans hstep
    exact .inl rfl
  · rcases exec_decode_cases w { s with host := rest } with ⟨k, -, hexec⟩ | ⟨u, hexec, hu⟩
    · cases h.symm.trans (hstep.trans hexec)
    · cases h.symm.trans (hstep.trans hexec)
      exact .inr (.inr ⟨w, rest, hhost, hu⟩)
  · cases h.symm.trans hstep
    exact .inr (.inl ⟨rest, hhost, rfl⟩)

theorem step_fault {s : State} {f : Fault} (h : step s = .fault f) :
    ∃ w rest k, s.host = .bus w :: rest ∧ s.violates w k ∧ f = k.fault (({ s with host := rest } : State).record k) := by
  rcases step_cases s with ⟨-, hstep⟩ | ⟨w, rest, hhost, hstep⟩ | ⟨rest, hhost, hstep⟩
  · cases h.symm.trans hstep
  · rcases exec_decode_cases w { s with host := rest } with ⟨k, hk, hexec⟩ | ⟨u, hexec, -⟩
    · cases h.symm.trans (hstep.trans hexec)
      exact ⟨w, rest, k, hhost, hk, rfl⟩
    · cases h.symm.trans (hstep.trans hexec)
  · cases h.symm.trans hstep

/-! ## What each way of completing leaves unchanged -/

theorem State.respond_frame (s : State) (o : Option Byte) :
    s.respond o = { s with hostReads := (s.respond o).hostReads, draws := (s.respond o).draws } := by
  cases o <;> rfl

theorem Completed.faults {w : BusWord} {s t : State} (h : Completed w s t) : t.faults = s.faults := by
  cases h with
  | read o => rw [State.respond_frame]
  | payload _ => rfl
  | register _ _ => rfl
  | command _ hi ht =>
    obtain ⟨u, hu, hframe, -⟩ := exec_command_frame hi s
    obtain rfl := Host.Outcome.next.inj (ht.symm.trans hu)
    rw [hframe]
  | illegal _ _ => rfl

theorem DescRegs.seq_put_of_ne {l : Location} (h : l ≠ .seq) (d : DescRegs) (b : Byte) : (d.put l b).seq = d.seq := by
  cases l with
  | seq => exact absurd rfl h
  | _ => rfl

/-- Only a write at 0x005 changes SEQ. -/
theorem Completed.seq {w : BusWord} {s t : State} (h : Completed w s t) :
    t.d.seq = s.d.seq ∨ (w = busWrite 0x005#9 w.data ∧ t.d.seq = w.data) := by
  cases h with
  | read o => rw [State.respond_frame]; exact .inl rfl
  | payload _ => exact .inl rfl
  | register hW hl =>
    by_cases hseq : locate w.off = .seq
    · have hoff := offset_locate (Location.ne_unmapped_of_isDescriptor hl)
      rw [hseq] at hoff
      have h5 : w.off = 0x005#9 := BitVec.eq_of_toNat_eq (Option.some.inj hoff).symm
      refine .inr ⟨h5 ▸ (busWrite_off_data hW).symm, ?_⟩
      rw [hseq, State.writeReg_unreserved rfl]
      rfl
    · exact .inl (DescRegs.seq_put_of_ne hseq _ _)
  | command _ hi ht =>
    obtain ⟨u, hu, hframe, -⟩ := exec_command_frame hi s
    obtain rfl := Host.Outcome.next.inj (ht.symm.trans hu)
    rw [hframe]
    exact .inl rfl
  | illegal _ _ => exact .inl rfl

/-- Only SER changes OUTLEN or OUTBUF. -/
theorem Completed.output {w : BusWord} {s t : State} (h : Completed w s t) :
    (t.res.outlen = s.res.outlen ∧ t.outbuf = s.outbuf)
      ∨ (w = 0x20020#18 ∧ (t.outbuf = s.outbuf ∨ t.res.status = 0x10#8)) := by
  cases h with
  | read o => rw [State.respond_frame]; exact .inl ⟨rfl, rfl⟩
  | payload _ => exact .inl ⟨rfl, rfl⟩
  | register _ _ => exact .inl ⟨rfl, rfl⟩
  | @command i c _ hw hi ht =>
    by_cases hser : i = .ser
    · subst hser
      cases hi
      refine .inr ⟨hw.trans (by decide), ?_⟩
      rcases exec_ser_cases s with ⟨x, -, hexec⟩ | ⟨bytes, r, n, -, -, hexec⟩
      · cases ht.symm.trans hexec
        exact .inl rfl
      · cases ht.symm.trans hexec
        exact .inr rfl
    · obtain ⟨u, hu, -, -, hquery⟩ := exec_command_frame hi s
      obtain rfl := Host.Outcome.next.inj (ht.symm.trans hu)
      obtain ⟨houtbuf, -, houtlen⟩ := hquery hser
      exact .inl ⟨houtlen, houtbuf⟩
  | illegal _ _ => exact .inl ⟨rfl, rfl⟩

/-- Only a write to CMD changes a result register, and it leaves its byte in CMD. -/
theorem Completed.results {w : BusWord} {s t : State} (h : Completed w s t) :
    t.res = s.res ∨ ∃ c, w = busWrite 0x000#9 c ∧ t.res.cmd = c := by
  cases h with
  | read o => rw [State.respond_frame]; exact .inl rfl
  | payload _ => exact .inl rfl
  | register _ _ => exact .inl rfl
  | command hw hi ht =>
    obtain ⟨u, hu, -, hcmd, -⟩ := exec_command_frame hi s
    obtain rfl := Host.Outcome.next.inj (ht.symm.trans hu)
    exact .inr ⟨_, hw, hcmd⟩
  | illegal hw _ => exact .inr ⟨_, hw, rfl⟩

/-! ## The invariant under each way of completing -/

theorem inv_writePayload {s : State} (h : s.Inv) {i : Nat} (hi : i < Config.payloadCap) (v : Byte) :
    (s.writePayload i v).Inv := by
  obtain ⟨hres, hcoh, hout, hwf, hin, houtwf, houtin⟩ := h
  exact ⟨hres, hcoh, hout, Memory.wf_set _ _ _ hwf, Memory.within_set _ _ _ _ hin hi, houtwf, houtin⟩

theorem and_not_and_self (v m : Byte) : v &&& ~~~m &&& m = 0x00#8 := by
  rw [BitVec.and_assoc, BitVec.and_comm (~~~m) m, BitVec.and_not_self]
  exact BitVec.and_zero

/-- A register write clears the reserved bits of its own register and leaves the others (10_state.md R32). -/
theorem reservedClear_writeReg {s : State} (h : s.reservedClear) (l : Location) (v : Byte) :
    (s.writeReg l v).reservedClear := by
  obtain ⟨hftsel, hflags, haddrcfg⟩ := h
  rw [State.writeReg_eq]
  cases l with
  | ftsel => exact ⟨and_not_and_self v _, hflags, haddrcfg⟩
  | flags => exact ⟨hftsel, and_not_and_self v _, haddrcfg⟩
  | addrcfg => exact ⟨hftsel, hflags, and_not_and_self v _⟩
  | _ => exact ⟨hftsel, hflags, haddrcfg⟩

theorem inv_writeReg {s : State} (h : s.Inv) (l : Location) (v : Byte) : (s.writeReg l v).Inv :=
  ⟨reservedClear_writeReg h.1 l v, h.2⟩

theorem inv_afterCommand {s : State} (h : s.Inv) {x : Byte} {r : BitVec 64} (hx : QueryOutcome x r) (c : Byte) :
    (s.afterCommand c x r).Inv := by
  obtain ⟨hres, -, hout, hmem⟩ := h
  refine ⟨hres, ?_, hout, hmem⟩
  rcases hx with rfl | ⟨rfl, rfl | rfl⟩ <;> simp [State.resultsCoherent, State.afterCommand, ResultRegs.rvalid]

theorem inv_illegal {s : State} (h : s.Inv) {c : Byte} (hL : legalCommand c = false) :
    ({ s with res := { s.res with cmd := c, status := 0x03#8, result := 0#64 } } : State).Inv := by
  obtain ⟨hres, -, hout, hmem⟩ := h
  exact ⟨hres, ⟨by simp, fun _ => rfl, by simp, fun _ => hL⟩, hout, hmem⟩

theorem inv_serRefused {s : State} (h : s.Inv) {x : Byte} (hx : x = 0x01#8 ∨ x = 0x02#8) :
    ({ s with res := { cmd := 0x20#8, status := x, result := 0#64, outlen := 0x00#8 } } : State).Inv := by
  obtain ⟨hres, -, -, hmem⟩ := h
  refine ⟨hres, ?_, ⟨.inl rfl, fun i hi => absurd hi (Nat.not_lt_zero i)⟩, hmem⟩
  rcases hx with rfl | rfl <;> simp [State.resultsCoherent]

theorem inv_serStored {s : State} (h : s.Inv) {bytes : List Byte} (hmin : 3 ≤ bytes.length)
    (hmax : bytes.length ≤ 125) (r : BitVec 64) (n : Nat) :
    ({ s with
      outbuf := s.outbuf.setFrom 0 bytes, draws := n
      res := { cmd := 0x20#8, status := 0x10#8, result := r, outlen := BitVec.ofNat 8 bytes.length } } : State).Inv := by
  obtain ⟨hres, -, -, hwf, hin, houtwf, houtin⟩ := h
  have houtlen : (BitVec.ofNat 8 bytes.length).toNat = bytes.length := by
    rw [BitVec.toNat_ofNat]
    omega
  refine ⟨hres, by simp [State.resultsCoherent, ResultRegs.rvalid], ⟨.inr ?_, fun i hi => ?_⟩, hwf, hin,
    Memory.wf_setFrom _ _ _ houtwf, Memory.within_setFrom _ _ _ _ houtin (by simp only [Config.mpduMax]; omega)⟩
  · simp only [houtlen]
    omega
  · rw [houtlen] at hi
    rw [Memory.get?_setFrom, if_pos (by omega), List.getElem?_eq_getElem (by omega)]
    rfl

theorem inv_command {s t : State} (h : s.Inv) {i : Instr} {c : Byte} (hi : commandByte i = some c)
    (ht : exec i s = .next t) : t.Inv := by
  by_cases hser : i = .ser
  · subst hser
    rcases exec_ser_cases s with ⟨x, hx, hexec⟩ | ⟨bytes, r, n, hmin, hmax, hexec⟩
    · cases ht.symm.trans hexec
      exact inv_serRefused h hx
    · cases ht.symm.trans hexec
      exact inv_serStored h hmin hmax r n
  · obtain ⟨out, hout, hexec⟩ := exec_query_eq hi hser
    cases ht.symm.trans (hexec s)
    exact inv_afterCommand h (hout _) c

theorem Completed.inv {w : BusWord} {s t : State} (h : Completed w s t) (hs : s.Inv) : t.Inv := by
  cases h with
  | read o => rw [State.respond_frame]; exact hs
  | payload hi => exact inv_writePayload hs hi _
  | register _ _ => exact inv_writeReg hs _ _
  | command _ hi ht => exact inv_command hs hi ht
  | illegal _ hL => exact inv_illegal hs hL

/-! ## The fault record (R205) -/

theorem FaultRecord.has_add_iff (f : FaultRecord) (j k : FaultKind) :
    (f.add j).has k = true ↔ f.has k = true ∨ k = j := by
  by_cases h : k = j
  · simp [h]
  · rw [FaultRecord.has_add_of_ne f j k h]
    simp [h]

theorem State.faulted_of_has {s : State} {k : FaultKind} (h : s.faults.has k = true) : s.faulted = true := by
  cases k <;> simp_all [FaultRecord.has, State.faulted]

end Sys2Proof.Machine

namespace Sys2Proof

open Sys2Proof.Machine

/-- Settles O60, evaluated at State.reset. -/
theorem resetMeetsTheInvariant : Obligations.ResetMeetsTheInvariant := by
  unfold Obligations.ResetMeetsTheInvariant
  decide

/-- Settles O59: the invariant under an idle step, a reset, and each way a bus word completes; a fault changes no
field it speaks of. -/
theorem everyStepKeepsTheInvariant : Obligations.EveryStepKeepsTheInvariant := by
  refine fun s hs => ⟨fun t h => ?_, fun f h => ?_⟩
  · rcases step_next h with rfl | ⟨rest, -, rfl⟩ | ⟨w, rest, -, hcompleted⟩
    · exact hs
    · exact resetMeetsTheInvariant
    · exact hcompleted.inv hs
  · obtain ⟨w, rest, k, -, -, rfl⟩ := step_fault h
    rw [FaultKind.state_fault]
    exact hs

/-- Settles O54: a bus word faults or completes. -/
theorem noStepRefuses : Obligations.NoStepRefuses := by
  intro s r h
  rcases step_cases s with ⟨-, hstep⟩ | ⟨w, rest, -, hstep⟩ | ⟨rest, -, hstep⟩
  · cases h.symm.trans hstep
  · rcases exec_decode_cases w { s with host := rest } with ⟨k, -, hexec⟩ | ⟨t, hexec, -⟩
    · cases h.symm.trans (hstep.trans hexec)
    · cases h.symm.trans (hstep.trans hexec)
  · cases h.symm.trans hstep

/-- Settles O55: a fault is a raised violation, a violation raises, and no completion touches the record. -/
theorem faultsAreRecordedAndNeverCleared : Obligations.FaultsAreRecordedAndNeverCleared := by
  refine ⟨fun s f h => ?_, fun s w rest k hhost hk => ?_, fun s t h => ?_, fun s f k h => ?_, fun s k hk => ?_⟩
  · obtain ⟨w, rest, k, hhost, hk, rfl⟩ := step_fault h
    rw [FaultKind.kind_fault, FaultKind.state_fault]
    exact ⟨w, rest, hhost, hk, rfl⟩
  · refine ⟨_, (step_of_bus hhost).trans (exec_of_violates hk), FaultKind.kind_fault k _⟩
  · rcases step_next h with rfl | ⟨rest, -, rfl⟩ | ⟨w, rest, -, hcompleted⟩
    · rfl
    · rfl
    · exact hcompleted.faults
  · obtain ⟨w, rest, j, -, -, rfl⟩ := step_fault h
    rw [FaultKind.kind_fault, FaultKind.state_fault]
    exact FaultRecord.has_add_iff s.faults j k
  · rw [State.final, State.faulted_of_has hk, Bool.not_true, Bool.and_false]

/-- Settles O56: of the ways a bus word completes, only the register write at 0x005 touches SEQ. -/
theorem onlyTheHostChangesSeq : Obligations.OnlyTheHostChangesSeq := by
  intro s t h hne
  rcases step_next h with rfl | ⟨rest, hhost, rfl⟩ | ⟨w, rest, hhost, hcompleted⟩
  · exact absurd rfl hne
  · exact .inr ⟨rest, hhost, rfl⟩
  · rcases hcompleted.seq with hsame | ⟨hw, hseq⟩
    · exact absurd hsame hne
    · exact .inl ⟨w.data, rest, hw ▸ hhost, hseq⟩

/-- Settles O57: of the ways a bus word completes, only SER touches OUTLEN or OUTBUF. -/
theorem onlySerChangesTheOutput : Obligations.OnlySerChangesTheOutput := by
  intro s t h hne
  rcases step_next h with rfl | ⟨rest, hhost, rfl⟩ | ⟨w, rest, hhost, hcompleted⟩
  · simp at hne
  · exact .inl ⟨rest, hhost⟩
  · rcases hcompleted.output with ⟨houtlen, houtbuf⟩ | ⟨rfl, hser⟩
    · exact absurd ⟨houtlen, houtbuf⟩ (not_and_or.2 hne)
    · exact .inr ⟨⟨rest, hhost⟩, fun hchanged => hser.resolve_left hchanged⟩

/-- Settles O58: of the ways a bus word completes, only a write to CMD touches the result registers. -/
theorem onlyCommandsChangeTheResults : Obligations.OnlyCommandsChangeTheResults := by
  intro s t h hne
  rcases step_next h with rfl | ⟨rest, hhost, rfl⟩ | ⟨w, rest, hhost, hcompleted⟩
  · exact absurd rfl hne
  · exact .inl ⟨rest, hhost⟩
  · rcases hcompleted.results with hsame | ⟨c, rfl, hcmd⟩
    · exact absurd hsame hne
    · exact .inr ⟨c, rest, hhost, hcmd⟩

end Sys2Proof
